-- ==== Sys2Proof/Word.lean ====
section
/-! DEFINITION. The two word types of CKFE (rules R7, R8): every value is an unsigned bit vector. -/

namespace Sys2Proof

/-- A byte: data bytes, payload bytes, module ids, header bytes (R7). -/
abbrev Byte := BitVec 8

/-- A 32-bit register, command word or bus data word (R23, R52, R72). -/
abbrev Word := BitVec 32

end Sys2Proof
end

