-- ==== Sys2Proof/Config.lean ====
section
/-! DEFINITION. The implementation parameters of rule R6. They are plain data, so that a statement over every state is a
statement over every parameter value; a statement that needs them legal takes `Config.Valid` as a premise. -/

namespace Sys2Proof

/-- The two OPEN parameters of R6. -/
structure Config where
  /-- `P_BASE`: byte address of the register window on the host bus. -/
  pBase : Nat
  /-- `P_PAYLOAD_CAP`: payload buffer capacity in bytes. -/
  pPayloadCap : Nat
deriving DecidableEq, Repr

/-- The bounds R6 puts on the parameters: the base a multiple of 64, the capacity 1 to 65535. -/
abbrev Config.Valid (c : Config) : Prop :=
  c.pBase % 64 = 0 ∧ 1 ≤ c.pPayloadCap ∧ c.pPayloadCap ≤ 65535

/-- The parameters `State.reset` takes: the capacity R6 recommends (log 2) and base 0
(DESIGN CHOICE, log 1: the spec leaves the base OPEN). Unsafe for a statement that rests on either value; none does. -/
def Config.recommended : Config where
  pBase := 0
  pPayloadCap := 65535

end Sys2Proof
end

