-- ==== Sys2Proof/Syntax.lean ====
section
/-! DEFINITION. The operations of CKFE: one constructor per row of spec/opcode_table.json (rules R70, R71, R74). -/

namespace Sys2Proof

/-- An operation of CKFE. The first ten are command words written to CMD (R74, R75), the rest register operations (R71). -/
inductive Instr where
  /-- `NOP` (R160). -/
  | nop
  /-- `CK_START` (R105). -/
  | ckStart
  /-- `CK_FEED b` (R106). -/
  | ckFeed (b : Byte)
  /-- `CK_FEED_PASS b` (R107). -/
  | ckFeedPass (b : Byte)
  /-- `CK_APPEND` (R108). -/
  | ckAppend
  /-- `FR_BEGIN m` (R134). -/
  | frBegin (m : Byte)
  /-- `FR_PUSH b` (R135). -/
  | frPush (b : Byte)
  /-- `FR_EMIT` (R136). -/
  | frEmit
  /-- `CLR_ERR` (R161). -/
  | clrErr
  /-- `ILLEGAL`: a command word that matches no row of R74 (R162). -/
  | illegal (w : Word)
  /-- `RD STATUS` (R24). -/
  | rdStatus
  /-- `RD EXCL_START` (R26). -/
  | rdExclStart
  /-- `WR EXCL_START, v` (R26). -/
  | wrExclStart (v : Word)
  /-- `RD EXCL_END` (R27). -/
  | rdExclEnd
  /-- `WR EXCL_END, v` (R27). -/
  | wrExclEnd (v : Word)
  /-- `RD CRC_STATE` (R28). -/
  | rdCrcState
  /-- `RD CRC_RESULT` (R29). -/
  | rdCrcResult
  /-- `RD CRC_INDEX` (R30). -/
  | rdCrcIndex
  /-- `RD HDR_CFG` (R31). -/
  | rdHdrCfg
  /-- `WR HDR_CFG, v` (R32). -/
  | wrHdrCfg (v : Word)
  /-- `RD HDR_BYTES` (R33). -/
  | rdHdrBytes
  /-- `WR HDR_BYTES, v` (R33). -/
  | wrHdrBytes (v : Word)
  /-- `RD FR_STATE` (R34). -/
  | rdFrState
  /-- `WR CMD, w`: perform the command the word encodes (R25). -/
  | wrCmd (w : Word)
deriving DecidableEq, Repr

end Sys2Proof
end

