-- ==== Sys2Proof/WellFormed.lean ====
section
/-! DEFINITION. Which terms of `Instr` stand for an operation. Operand widths are in the types; the one condition left is that
ILLEGAL names a word that is no command (R76, R162). The condition is written from the fields of R72, not from the decoder's table. -/

namespace Sys2Proof

/-- Field OP, bits 31:24 (R72). -/
def opField (w : Word) : Byte := w.extractLsb' 24 8

/-- Field RSV, bits 23:8 (R72). -/
def rsvField (w : Word) : BitVec 16 := w.extractLsb' 8 16

/-- Field IMM8, bits 7:0 (R72). -/
def immField (w : Word) : Byte := w.extractLsb' 0 8

/-- The OP values that are not reserved (R76). -/
def definedOps : List Byte := [0x00, 0x01, 0x02, 0x03, 0x04, 0x10, 0x11, 0x12, 0x20]

/-- The OP values whose command takes IMM8: CK_FEED, CK_FEED_PASS, FR_BEGIN and FR_PUSH (R72). -/
def operandOps : List Byte := [0x02, 0x03, 0x10, 0x11]

/-- R76: a reserved OP, a nonzero RSV, or a nonzero IMM8 where the command takes no operand. -/
def illegalWord (w : Word) : Bool :=
  !definedOps.contains (opField w) || rsvField w != 0 || (immField w != 0 && !operandOps.contains (opField w))

/-- Which terms stand for an operation. -/
def Instr.wellFormed : Instr → Bool
  | .nop => true
  | .ckStart => true
  | .ckFeed _ => true
  | .ckFeedPass _ => true
  | .ckAppend => true
  | .frBegin _ => true
  | .frPush _ => true
  | .frEmit => true
  | .clrErr => true
  | .illegal w => illegalWord w
  | .rdStatus => true
  | .rdExclStart => true
  | .wrExclStart _ => true
  | .rdExclEnd => true
  | .wrExclEnd _ => true
  | .rdCrcState => true
  | .rdCrcResult => true
  | .rdCrcIndex => true
  | .rdHdrCfg => true
  | .wrHdrCfg _ => true
  | .rdHdrBytes => true
  | .wrHdrBytes _ => true
  | .rdFrState => true
  | .wrCmd _ => true

end Sys2Proof
end

