-- ==== Sys2Proof/Decode.lean ====
section
/-! DEFINITION. Encodings (rules R51 to R53, R71 to R77): the bus transaction, the command word, the decoder of each and the
encoder. A CMD write reaches its command in two steps, as in R25 and R75: the bus decoder names it `WR CMD, w`, the command
decoder reads w (log 9). -/

namespace Sys2Proof

/-! ### Command words -/

/-- A command, as R74 and R75 list them. -/
inductive Command where
  | nop
  | ckStart
  | ckFeed (b : Byte)
  | ckFeedPass (b : Byte)
  | ckAppend
  | frBegin (m : Byte)
  | frPush (b : Byte)
  | frEmit
  | clrErr
  | illegal (w : Word)
deriving DecidableEq, Repr

/-- The operation a command is. -/
def Command.instr : Command → Instr
  | .nop => .nop
  | .ckStart => .ckStart
  | .ckFeed b => .ckFeed b
  | .ckFeedPass b => .ckFeedPass b
  | .ckAppend => .ckAppend
  | .frBegin m => .frBegin m
  | .frPush b => .frPush b
  | .frEmit => .frEmit
  | .clrErr => .clrErr
  | .illegal w => .illegal w

/-- A row of the opcode map R74: a word w selects it when `w &&& mask = word`. -/
structure OpcodeRow where
  word : Word
  mask : Word
  command : Byte → Command

/-- The opcode map of R74, in its order. -/
def opcodeMap : List OpcodeRow :=
  [ ⟨0x00000000, 0xFFFFFFFF, fun _ => .nop⟩,
    ⟨0x01000000, 0xFFFFFFFF, fun _ => .ckStart⟩,
    ⟨0x02000000, 0xFFFFFF00, .ckFeed⟩,
    ⟨0x03000000, 0xFFFFFF00, .ckFeedPass⟩,
    ⟨0x04000000, 0xFFFFFFFF, fun _ => .ckAppend⟩,
    ⟨0x10000000, 0xFFFFFF00, .frBegin⟩,
    ⟨0x11000000, 0xFFFFFF00, .frPush⟩,
    ⟨0x12000000, 0xFFFFFFFF, fun _ => .frEmit⟩,
    ⟨0x20000000, 0xFFFFFFFF, fun _ => .clrErr⟩ ]

/-- The operand of a command: bits 7:0, unchanged (R73). -/
def commandOperand (w : Word) : Byte := w.extractLsb' 0 8

/-- The command decoder of R75; total. -/
def decodeCommand (w : Word) : Command :=
  match opcodeMap.find? (fun r => w &&& r.mask == r.word) with
  | some r => r.command (commandOperand w)
  | none => .illegal w

/-- A command's word, `match | imm8` (R74, R78). -/
def commandWord : Command → Word
  | .nop => 0x00000000
  | .ckStart => 0x01000000
  | .ckFeed b => 0x02000000 ||| b.setWidth 32
  | .ckFeedPass b => 0x03000000 ||| b.setWidth 32
  | .ckAppend => 0x04000000
  | .frBegin m => 0x10000000 ||| m.setWidth 32
  | .frPush b => 0x11000000 ||| b.setWidth 32
  | .frEmit => 0x12000000
  | .clrErr => 0x20000000
  | .illegal w => w

/-! ### Registers and bus transactions -/

/-- The registers of the map R23. -/
inductive Reg where
  | status | cmd | exclStart | exclEnd | crcState | crcResult | crcIndex | hdrCfg | hdrBytes | frState
deriving DecidableEq, Repr

/-- R23: a register's offset in the window. -/
def Reg.offset : Reg → Nat
  | .status => 0x00
  | .cmd => 0x04
  | .exclStart => 0x08
  | .exclEnd => 0x0C
  | .crcState => 0x10
  | .crcResult => 0x14
  | .crcIndex => 0x18
  | .hdrCfg => 0x1C
  | .hdrBytes => 0x20
  | .frState => 0x24

/-- The registers of R23, in the order of their offsets. -/
def registers : List Reg :=
  [.status, .cmd, .exclStart, .exclEnd, .crcState, .crcResult, .crcIndex, .hdrCfg, .hdrBytes, .frState]

/-- The register at an offset; none where no register is (R38). -/
def registerAt (off : Nat) : Option Reg := registers.find? (fun r => r.offset == off)

/-- Direction of a transaction, with the data of a write (R51). -/
inductive Access where
  | read
  | write (wdata : Word)
deriving DecidableEq, Repr

/-- A host bus transaction `(dir, addr, size, wdata)` (R51). -/
structure Transaction where
  access : Access
  addr : Nat
  size : Nat
deriving DecidableEq, Repr

/-- Why a transaction inside the window is a bus error (R53). -/
inductive Reject where
  /-- The size is not 4. -/
  | badSize
  /-- The offset is no multiple of 4. -/
  | misaligned
  /-- No register is at the offset (R38). -/
  | reservedOffset
  /-- A write of a register without W access. -/
  | notWritable
  /-- A read of a register without R access. -/
  | notReadable
deriving DecidableEq, Repr

/-- What decoding answers: an operation, or a rejection by name. -/
inductive Decoded where
  | ok (i : Instr)
  | rejected (r : Reject)
deriving DecidableEq, Repr

/-- The operation a read of a register is (R71); CMD has no R access (R23). -/
def readOp : Reg → Decoded
  | .status => .ok .rdStatus
  | .cmd => .rejected .notReadable
  | .exclStart => .ok .rdExclStart
  | .exclEnd => .ok .rdExclEnd
  | .crcState => .ok .rdCrcState
  | .crcResult => .ok .rdCrcResult
  | .crcIndex => .ok .rdCrcIndex
  | .hdrCfg => .ok .rdHdrCfg
  | .hdrBytes => .ok .rdHdrBytes
  | .frState => .ok .rdFrState

/-- The operation a write of v to a register is (R71); STATUS, CRC_STATE, CRC_RESULT, CRC_INDEX and FR_STATE have no W access (R23). -/
def writeOp (v : Word) : Reg → Decoded
  | .status => .rejected .notWritable
  | .cmd => .ok (.wrCmd v)
  | .exclStart => .ok (.wrExclStart v)
  | .exclEnd => .ok (.wrExclEnd v)
  | .crcState => .rejected .notWritable
  | .crcResult => .rejected .notWritable
  | .crcIndex => .rejected .notWritable
  | .hdrCfg => .ok (.wrHdrCfg v)
  | .hdrBytes => .ok (.wrHdrBytes v)
  | .frState => .rejected .notWritable

/-- The bus decoder: what an access at an offset of the window is (R52, R53, R71). -/
def decodeBus (a : Access) (off size : Nat) : Decoded :=
  if size ≠ 4 then .rejected .badSize
  else if off % 4 ≠ 0 then .rejected .misaligned
  else match registerAt off with
    | none => .rejected .reservedOffset
    | some r => match a with
      | .read => readOp r
      | .write v => writeOp v r

/-! ### Encoding -/

/-- An encoded operation, in the two formats of the opcode table: a command word, or a bus access (direction, offset, size). -/
inductive Encoded where
  | command (w : Word)
  | bus (a : Access) (off size : Nat)
deriving DecidableEq, Repr

/-- The decoder of both formats; total. -/
def decode : Encoded → Decoded
  | .command w => .ok (decodeCommand w).instr
  | .bus a off size => decodeBus a off size

/-- A 32-bit access to a register (R71). -/
def Encoded.access (a : Access) (r : Reg) : Encoded := .bus a r.offset 4

/-- The encoding of an operation (R71, R74). -/
def encode : Instr → Encoded
  | .nop => .command (commandWord .nop)
  | .ckStart => .command (commandWord .ckStart)
  | .ckFeed b => .command (commandWord (.ckFeed b))
  | .ckFeedPass b => .command (commandWord (.ckFeedPass b))
  | .ckAppend => .command (commandWord .ckAppend)
  | .frBegin m => .command (commandWord (.frBegin m))
  | .frPush b => .command (commandWord (.frPush b))
  | .frEmit => .command (commandWord .frEmit)
  | .clrErr => .command (commandWord .clrErr)
  | .illegal w => .command (commandWord (.illegal w))
  | .rdStatus => .access .read .status
  | .rdExclStart => .access .read .exclStart
  | .wrExclStart v => .access (.write v) .exclStart
  | .rdExclEnd => .access .read .exclEnd
  | .wrExclEnd v => .access (.write v) .exclEnd
  | .rdCrcState => .access .read .crcState
  | .rdCrcResult => .access .read .crcResult
  | .rdCrcIndex => .access .read .crcIndex
  | .rdHdrCfg => .access .read .hdrCfg
  | .wrHdrCfg v => .access (.write v) .hdrCfg
  | .rdHdrBytes => .access .read .hdrBytes
  | .wrHdrBytes v => .access (.write v) .hdrBytes
  | .rdFrState => .access .read .frState
  | .wrCmd w => .access (.write w) .cmd

/-- The host bus transaction that carries an encoded operation: a command word is a 32-bit write to CMD (R70, R78). -/
def Encoded.transaction (cfg : Config) : Encoded → Transaction
  | .command w => ⟨.write w, cfg.pBase + Reg.cmd.offset, 4⟩
  | .bus a off size => ⟨a, cfg.pBase + off, size⟩

/-! ### The opcode table's numbering -/

/-- The direction of a register operation that the table gives by its offset alone: the one direction the register has;
where it has both, bit 6 of the word (which no row fixes) chooses the write (DESIGN CHOICE, log 13). -/
def tableAccess (off : Nat) (bit6 : Bool) : Access :=
  match registerAt off with
  | none => .read
  | some r => match readOp r, writeOp 0 r with
    | .ok _, .ok _ => if bit6 then .write 0 else .read
    | .ok _, .rejected _ => .read
    | .rejected _, _ => .write 0

/-- The encoding the table's bits stand for: 32 bits are a command word; fewer are a register operation, offset in bits 5:0
(the table's mask 0x3F), of size 4 with write data 0. -/
def tableEncoded (nbits w : Nat) : Encoded :=
  if nbits < 32 then .bus (tableAccess (w % 64) (w.testBit 6)) (w % 64) 4
  else .command (BitVec.ofNat 32 w)

/-- The operation the decoder reads from an instruction's bits, numbered as the opcode table numbers them. -/
def decodeTableWord (nbits w : Nat) : Option Instr :=
  match decode (tableEncoded nbits w) with
  | .ok i => some i
  | .rejected _ => none

end Sys2Proof
end

