-- ==== Sys2Proof/Machine/State.lean ====
section
/-! DEFINITION. The state of CKFE (rule R22), the model's own fields around it (output, bus response, host events, parameters),
the reasons a step can stop, and the reset state (R39). -/

namespace Sys2Proof.Machine

/-- A transaction's response (R51): OK with 32 bits of data for a read, OK for a write, or BUSERR, which carries no data (R53). -/
inductive Response where
  | okRead (data : Word)
  | okWrite
  | busErr
deriving DecidableEq, Repr

/-- What the host does to CKFE: issue a bus transaction (R51), or assert the reset signal between operations (R190). -/
inductive HostEvent where
  | transaction (t : Transaction)
  | reset
deriving DecidableEq, Repr

/-- The state. The first eleven fields are R22's, in its order; `out` is the output port of R57; the last three are the model's
own (log 1, 2, 3, 5). -/
structure State where
  /-- Running CRC before the final complement (R28). -/
  crcState : Word
  /-- Index of the next byte fed, saturating (R30). -/
  crcIndex : Word
  /-- First index of the exclusion window (R26). -/
  exclStart : Word
  /-- One past the last index of the exclusion window (R27). -/
  exclEnd : Word
  /-- Number of link header bytes, 0 to 4 (R31). -/
  hdrLen : BitVec 3
  /-- Link header bytes, byte 0 in bits 31:24 (R33). -/
  hdrBytes : Word
  /-- Module id of the frame under construction (R37). -/
  frModule : Byte
  /-- Payload of the frame under construction, in push order (R35). -/
  pbuf : List Byte
  /-- Count of payload bytes (R35). -/
  pcount : BitVec 16
  /-- The frame under construction is poisoned (R36). -/
  frOvf : Bool
  /-- The five sticky error bits, bit number = cause code (R24). -/
  status : BitVec 5
  /-- Bytes written to the output port, in order (R57). -/
  out : List Byte
  /-- Response of the most recent transaction; none before the first (R51, log 5). -/
  response : Option Response
  /-- Host events not yet performed, in issue order (R60, log 3). -/
  pending : List HostEvent
  /-- The implementation parameters (R6, log 1, 2); no step changes them. -/
  cfg : Config
deriving DecidableEq, Repr

/-- Reasons the machine stops with a fault: none. CKFE reports every error by a STATUS bit and goes on (R170, R176), so the type
has no constructor, nothing raises it, and that is exact. -/
inductive Fault where
deriving DecidableEq, Repr

/-- Reasons a step has no meaning. -/
inductive Refusal where
  /-- Raised by an arm of `exec` whose instruction has no meaning yet; no arm raises it. Safe. -/
  | notModelled (mnemonic : String)
  /-- Raised by `busAccess` for a transaction whose address is outside the window: what happens there is the platform's,
  not CKFE's (R51, 93_implementation_defined.md section 2; log 6). Safe: nothing can be concluded about such a step. -/
  | outsideWindow
deriving DecidableEq, Repr

/-- The state right after reset (R39) with given parameters, nothing emitted and nothing issued yet. -/
def State.resetWith (cfg : Config) : State where
  crcState := 0xFFFFFFFF
  crcIndex := 0
  exclStart := 0x00000000
  exclEnd := 0x00000004
  hdrLen := 2
  hdrBytes := 0x56450000
  frModule := 0x00
  pbuf := []
  pcount := 0
  frOvf := false
  status := 0
  out := []
  response := none
  pending := []
  cfg := cfg

/-- The machine right after reset, with the recommended parameters (log 1, 2). -/
def State.reset : State := State.resetWith Config.recommended

end Sys2Proof.Machine
end

