-- ==== Sys2Proof/Machine/Flags.lean ====
section
/-! DEFINITION. The STATUS flags: the error causes (R171), raising one (R9, R170) and clearing them (R161, R177). -/

namespace Sys2Proof.Machine

/-- The error causes of R171. -/
inductive Cause where
  | ill | lovf | frej | cfge | buse
deriving DecidableEq, Repr

/-- The code of a cause is its STATUS bit number (R171, R24). -/
def Cause.code : Cause → Nat
  | .ill => 0
  | .lovf => 1
  | .frej => 2
  | .cfge => 3
  | .buse => 4

/-- STATUS with only the bit of one cause set. -/
def Cause.bit (c : Cause) : BitVec 5 := 1#5 <<< c.code

/-- `raise E` (R9): the STATUS bit of cause E becomes 1 and nothing else changes. This is the whole of taking an exception:
no state is saved, no mode changes and no control transfers (R170, R176). -/
def State.raise (c : Cause) (s : State) : State := { s with status := s.status ||| c.bit }

/-- The way back (R177): all five bits become 0. -/
def State.clearErrors (s : State) : State := { s with status := 0 }

end Sys2Proof.Machine
end

