-- ==== Sys2Proof/Machine/Operands.lean ====
section
/-! DEFINITION. What operations read: the value of each register (R24 to R34), the header (R33), the legality of a HDR_CFG
value (R32) and the protocol's module ids (R81). -/

namespace Sys2Proof.Machine

/-- STATUS reads as the five bits, zero-extended (R24). -/
def State.statusValue (s : State) : Word := s.status.setWidth 32

/-- CRC_RESULT is `~CRC_STATE`, no storage of its own (R29). -/
def State.crcResult (s : State) : Word := ~~~ s.crcState

/-- HDR_CFG reads as HDR_LEN, zero-extended (R31). -/
def State.hdrCfgValue (s : State) : Word := s.hdrLen.setWidth 32

/-- FR_STATE: FR_MODULE in bits 31:24, 0 in 23:17, FR_OVF in 16, PCOUNT in 15:0 (R34). -/
def State.frStateValue (s : State) : Word := s.frModule ++ 0#7 ++ BitVec.ofBool s.frOvf ++ s.pcount

/-- The four header bytes of HDR_BYTES, byte 0 in bits 31:24 (R33). -/
def headerBytes (v : Word) : List Byte :=
  [v.extractLsb' 24 8, v.extractLsb' 16 8, v.extractLsb' 8 8, v.extractLsb' 0 8]

/-- `Header()`: header bytes 0 to HDR_LEN - 1 (R33). -/
def State.header (s : State) : List Byte := (headerBytes s.hdrBytes).take s.hdrLen.toNat

/-- R32: `v[31:3] = 0` and `v[2:0] <= 4`. -/
def legalHdrCfg (v : Word) : Bool := v.extractLsb' 3 29 == 0 && decide (v.extractLsb' 0 3 ≤ 4)

/-- The modules of the protocol (R81). CKFE checks no module id against them (R82, R140). -/
inductive Module where
  | dac | gpio | potentiometer | adc
deriving DecidableEq, Repr

/-- The one-byte module ids (R81). -/
def Module.id : Module → Byte
  | .dac => 0x00
  | .gpio => 0x01
  | .potentiometer => 0x03
  | .adc => 0x04

end Sys2Proof.Machine
end

