-- ==== Sys2Proof/Machine/Ops.lean ====
section
/-! DEFINITION. The shared operations: byte order, the CRC, the exclusion window, the frame, and what a meaning does to the
state (emit, feed, frame state, bus response, reset signal). -/

namespace Sys2Proof.Machine

/-! ### Byte order -/

/-- `be16(n)`: bits 15:8 then bits 7:0 (R8). -/
def be16 (n : Nat) : List Byte := [BitVec.ofNat 8 (n >>> 8), BitVec.ofNat 8 n]

/-- `be32(x)`: four bytes, most significant first (R8). -/
def be32 (x : Word) : List Byte :=
  [x.extractLsb' 24 8, x.extractLsb' 16 8, x.extractLsb' 8 8, x.extractLsb' 0 8]

/-! ### The checksum -/

/-- The reflected CRC-32 polynomial (R100). -/
def crcPoly : Word := 0xEDB88320

/-- One step of the bit-serial update (R101). -/
def crcBit (c : Word) : Word := if c.getLsbD 0 then (c >>> 1) ^^^ crcPoly else c >>> 1

/-- `CrcByte(c, b)` (R101). -/
def crcByte (c : Word) (b : Byte) : Word :=
  crcBit (crcBit (crcBit (crcBit (crcBit (crcBit (crcBit (crcBit (c ^^^ b.setWidth 32))))))))

/-- `Excluded(i, s, e)`, on unsigned numbers (R102). -/
def excluded (i s e : Nat) : Bool := decide (s ≤ i) && decide (i < e)

/-- The running CRC after the bytes of d, the first of them at index i, skipping those in `[s, e)` (the loop of R103). -/
def crcFrom (c : Word) (i s e : Nat) : List Byte → Word
  | [] => c
  | b :: d => crcFrom (if excluded i s e then c else crcByte c b) (i + 1) s e d

/-- `Checksum(d, s, e)` (R103). -/
def checksum (d : List Byte) (s e : Nat) : Word := ~~~ crcFrom 0xFFFFFFFF 0 s e d

/-! ### The frame -/

/-- The frame without its checksum, `HEADER ‖ LENGTH ‖ MODULE_ID ‖ PAYLOAD` (R132, R133). -/
def framed (hdr : List Byte) (m : Byte) (p : List Byte) : List Byte := hdr ++ be16 p.length ++ [m] ++ p

/-- `BuildFrame(hdr, m, p)`: the checksum skips exactly the header (R132, R133; conflict C1, Reading A). -/
def buildFrame (hdr : List Byte) (m : Byte) (p : List Byte) : List Byte :=
  framed hdr m p ++ be32 (checksum (framed hdr m p) 0 hdr.length)

/-! ### Operations on the state -/

/-- `Emit(s)` (R57). -/
def State.emit (bs : List Byte) (s : State) : State := { s with out := s.out ++ bs }

/-- The bus response of the transaction being performed (R51). -/
def State.respond (r : Response) (s : State) : State := { s with response := some r }

/-- The saturating increment of CRC_INDEX (R106, R163). -/
def nextIndex (i : Word) : Word := if i = 0xFFFFFFFF then i else i + 1

/-- A checksum begins (R105). -/
def State.startChecksum (s : State) : State := { s with crcState := 0xFFFFFFFF, crcIndex := 0 }

/-- A byte is fed: skipped or accumulated by the window as it is now, and counted (R106). -/
def State.feed (b : Byte) (s : State) : State :=
  { s with
    crcState :=
      if excluded s.crcIndex.toNat s.exclStart.toNat s.exclEnd.toNat then s.crcState else crcByte s.crcState b
    crcIndex := nextIndex s.crcIndex }

/-- The payload becomes empty and the poison is lifted (R134, R136). -/
def State.clearFrame (s : State) : State := { s with pbuf := [], pcount := 0, frOvf := false }

/-- FR_MODULE is written (R134). -/
def State.setModule (m : Byte) (s : State) : State := { s with frModule := m }

/-- A byte is appended to the payload (R135). -/
def State.pushByte (b : Byte) (s : State) : State := { s with pbuf := s.pbuf ++ [b], pcount := s.pcount + 1 }

/-- A payload byte is refused: the frame is poisoned (R135). -/
def State.poison (s : State) : State := { s with frOvf := true }

/-- A push is refused when the frame is poisoned or the payload is full (R135). -/
def State.pushRefused (s : State) : Bool := s.frOvf || s.pcount.toNat == s.cfg.pPayloadCap

/-- The frame FR_EMIT sends, read from the state as it is now (R136, R143). -/
def State.frame (s : State) : List Byte := buildFrame s.header s.frModule s.pbuf

/-- A bus error's whole effect (R53). -/
def State.busError (s : State) : State := (s.raise .buse).respond .busErr

/-- The reset signal (R190): every state element to its value of R39; OUT, the last response, the events the host has yet to
issue and the parameters are no state element of R22 and stay. -/
def State.resetSignal (s : State) : State :=
  { State.resetWith s.cfg with out := s.out, response := s.response, pending := s.pending }

/-- The offset of an address in the window; none outside it (R51). -/
def windowOffset (cfg : Config) (addr : Nat) : Option Nat :=
  if cfg.pBase ≤ addr ∧ addr ≤ cfg.pBase + 0x3F then some (addr - cfg.pBase) else none

end Sys2Proof.Machine
end

