-- ==== Sys2Proof/Machine/Checksum.lean ====
section
/-! DEFINITION. The meanings of the CK commands (R105 to R108). None of them can fail (R112). -/

namespace Sys2Proof.Machine

/-- `CK_START` (R105). -/
def execCkStart (s : State) : Host.Outcome State Fault Refusal := .next (s.startChecksum.respond .okWrite)

/-- `CK_FEED b` (R106). -/
def execCkFeed (b : Byte) (s : State) : Host.Outcome State Fault Refusal := .next ((s.feed b).respond .okWrite)

/-- `CK_FEED_PASS b`: emit b, then the effect of CK_FEED b (R107). -/
def execCkFeedPass (b : Byte) (s : State) : Host.Outcome State Fault Refusal :=
  .next (((s.emit [b]).feed b).respond .okWrite)

/-- `CK_APPEND` (R108). -/
def execCkAppend (s : State) : Host.Outcome State Fault Refusal :=
  .next ((s.emit (be32 s.crcResult)).respond .okWrite)

end Sys2Proof.Machine
end

