-- ==== Sys2Proof/Machine/Control.lean ====
section
/-! DEFINITION. The meanings of the control commands (R160 to R162). -/

namespace Sys2Proof.Machine

/-- `NOP` (R160). -/
def execNop (s : State) : Host.Outcome State Fault Refusal := .next (s.respond .okWrite)

/-- `CLR_ERR` (R161). -/
def execClrErr (s : State) : Host.Outcome State Fault Refusal := .next (s.clearErrors.respond .okWrite)

/-- `ILLEGAL` (R162): no part of the word is performed, so its operand is not read. -/
def execIllegal (_w : Word) (s : State) : Host.Outcome State Fault Refusal := .next ((s.raise .ill).respond .okWrite)

end Sys2Proof.Machine
end

