-- ==== Sys2Proof/Machine/Frame.lean ====
section
/-! DEFINITION. The meanings of the FR commands (R134 to R136). -/

namespace Sys2Proof.Machine

/-- `FR_BEGIN m` (R134). -/
def execFrBegin (m : Byte) (s : State) : Host.Outcome State Fault Refusal :=
  .next ((s.setModule m).clearFrame.respond .okWrite)

/-- `FR_PUSH b` (R135). -/
def execFrPush (b : Byte) (s : State) : Host.Outcome State Fault Refusal :=
  if s.pushRefused then .next ((s.poison.raise .lovf).respond .okWrite)
  else .next ((s.pushByte b).respond .okWrite)

/-- `FR_EMIT` (R136): a poisoned frame is rejected whole; the frame state is cleared in both cases. -/
def execFrEmit (s : State) : Host.Outcome State Fault Refusal :=
  if s.frOvf then .next ((s.raise .frej).clearFrame.respond .okWrite)
  else .next ((s.emit s.frame).clearFrame.respond .okWrite)

end Sys2Proof.Machine
end

