-- ==== Sys2Proof/Machine/Registers.lean ====
section
/-! DEFINITION. The meanings of the register operations (R71): reads answer a value and change nothing else (R54), writes have
the effect of their register's rule (R55), and a write of CMD performs the command its word encodes (R25, R75). -/

namespace Sys2Proof.Machine

/-- A read's answer: OK with the value (R51, R54). -/
def State.answer (v : Word) (s : State) : Host.Outcome State Fault Refusal := .next (s.respond (.okRead v))

/-- `RD STATUS` (R24). -/
def execRdStatus (s : State) : Host.Outcome State Fault Refusal := s.answer s.statusValue

/-- `RD EXCL_START` (R26). -/
def execRdExclStart (s : State) : Host.Outcome State Fault Refusal := s.answer s.exclStart

/-- `RD EXCL_END` (R27). -/
def execRdExclEnd (s : State) : Host.Outcome State Fault Refusal := s.answer s.exclEnd

/-- `RD CRC_STATE` (R28). -/
def execRdCrcState (s : State) : Host.Outcome State Fault Refusal := s.answer s.crcState

/-- `RD CRC_RESULT` (R29). -/
def execRdCrcResult (s : State) : Host.Outcome State Fault Refusal := s.answer s.crcResult

/-- `RD CRC_INDEX` (R30). -/
def execRdCrcIndex (s : State) : Host.Outcome State Fault Refusal := s.answer s.crcIndex

/-- `RD HDR_CFG` (R31). -/
def execRdHdrCfg (s : State) : Host.Outcome State Fault Refusal := s.answer s.hdrCfgValue

/-- `RD HDR_BYTES` (R33). -/
def execRdHdrBytes (s : State) : Host.Outcome State Fault Refusal := s.answer s.hdrBytes

/-- `RD FR_STATE` (R34). -/
def execRdFrState (s : State) : Host.Outcome State Fault Refusal := s.answer s.frStateValue

/-- `WR EXCL_START, v` (R26). -/
def execWrExclStart (v : Word) (s : State) : Host.Outcome State Fault Refusal :=
  .next ({ s with exclStart := v }.respond .okWrite)

/-- `WR EXCL_END, v` (R27). -/
def execWrExclEnd (v : Word) (s : State) : Host.Outcome State Fault Refusal :=
  .next ({ s with exclEnd := v }.respond .okWrite)

/-- `WR HDR_CFG, v` (R32): an illegal value is refused whole. -/
def execWrHdrCfg (v : Word) (s : State) : Host.Outcome State Fault Refusal :=
  if legalHdrCfg v then .next ({ s with hdrLen := v.extractLsb' 0 3 }.respond .okWrite)
  else .next ((s.raise .cfge).respond .okWrite)

/-- `WR HDR_BYTES, v` (R33). -/
def execWrHdrBytes (v : Word) (s : State) : Host.Outcome State Fault Refusal :=
  .next ({ s with hdrBytes := v }.respond .okWrite)

/-- Perform a decoded command (R75). -/
def performCommand (c : Command) (s : State) : Host.Outcome State Fault Refusal :=
  match c with
  | .nop => execNop s
  | .ckStart => execCkStart s
  | .ckFeed b => execCkFeed b s
  | .ckFeedPass b => execCkFeedPass b s
  | .ckAppend => execCkAppend s
  | .frBegin m => execFrBegin m s
  | .frPush b => execFrPush b s
  | .frEmit => execFrEmit s
  | .clrErr => execClrErr s
  | .illegal w => execIllegal w s

/-- `WR CMD, w` (R25): perform the command w encodes; CMD stores nothing. -/
def execWrCmd (w : Word) (s : State) : Host.Outcome State Fault Refusal := performCommand (decodeCommand w) s

end Sys2Proof.Machine
end

