-- ==== Sys2Proof/Machine/Dispatch.lean ====
section
/-! DEFINITION. The dispatch: one arm per operation of the opcode table. -/

namespace Sys2Proof.Machine

def exec (i : Instr) (s : State) : Host.Outcome State Fault Refusal :=
  match i with
  | .nop => Sys2Proof.Machine.execNop s
  | .ckStart => Sys2Proof.Machine.execCkStart s
  | .ckFeed b => Sys2Proof.Machine.execCkFeed b s
  | .ckFeedPass b => Sys2Proof.Machine.execCkFeedPass b s
  | .ckAppend => Sys2Proof.Machine.execCkAppend s
  | .frBegin m => Sys2Proof.Machine.execFrBegin m s
  | .frPush b => Sys2Proof.Machine.execFrPush b s
  | .frEmit => Sys2Proof.Machine.execFrEmit s
  | .clrErr => Sys2Proof.Machine.execClrErr s
  | .illegal w => Sys2Proof.Machine.execIllegal w s
  | .rdStatus => Sys2Proof.Machine.execRdStatus s
  | .rdExclStart => Sys2Proof.Machine.execRdExclStart s
  | .wrExclStart v => Sys2Proof.Machine.execWrExclStart v s
  | .rdExclEnd => Sys2Proof.Machine.execRdExclEnd s
  | .wrExclEnd v => Sys2Proof.Machine.execWrExclEnd v s
  | .rdCrcState => Sys2Proof.Machine.execRdCrcState s
  | .rdCrcResult => Sys2Proof.Machine.execRdCrcResult s
  | .rdCrcIndex => Sys2Proof.Machine.execRdCrcIndex s
  | .rdHdrCfg => Sys2Proof.Machine.execRdHdrCfg s
  | .wrHdrCfg v => Sys2Proof.Machine.execWrHdrCfg v s
  | .rdHdrBytes => Sys2Proof.Machine.execRdHdrBytes s
  | .wrHdrBytes v => Sys2Proof.Machine.execWrHdrBytes v s
  | .rdFrState => Sys2Proof.Machine.execRdFrState s
  | .wrCmd w => Sys2Proof.Machine.execWrCmd w s

end Sys2Proof.Machine
end

