-- ==== Sys2Proof/Machine/Bus.lean ====
section
/-! DEFINITION. Performing one host event: a bus transaction (R51 to R55) or the reset signal (R190), and issuing an operation. -/

namespace Sys2Proof.Machine

/-- Perform a bus transaction: outside the window it is not CKFE's (R51, log 6); inside, an admitted access is performed and any
other is a bus error (R53). -/
def busAccess (t : Transaction) (s : State) : Host.Outcome State Fault Refusal :=
  match windowOffset s.cfg t.addr with
  | none => .refused .outsideWindow
  | some off => match decodeBus t.access off t.size with
    | .ok i => exec i s
    | .rejected _ => .next s.busError

/-- Perform the first of the host's events, the others still to come. With none the machine waits, unchanged (log 4). -/
def performNext (s : State) : Host.Outcome State Fault Refusal :=
  match s.pending with
  | [] => .next s
  | .reset :: es => .next { s with pending := es }.resetSignal
  | .transaction t :: es => busAccess t { s with pending := es }

/-- The host event that issues an operation (R70, R78). -/
def issue (cfg : Config) (i : Instr) : HostEvent := .transaction ((encode i).transaction cfg)

end Sys2Proof.Machine
end

