-- ==== Sys2Proof/Machine/Step.lean ====
section
/-! DEFINITION. One step: the first pending host event, performed whole (R10, R60). -/

namespace Sys2Proof.Machine

/-- One step. Operations are performed one at a time, in issue order, each complete before the next (R60). -/
def step (s : State) : Host.Outcome State Fault Refusal := performNext s

/-- s with an operation, given by the opcode table's bits, issued as the next host event (log 3, 13). -/
def State.withFetchWord (s : State) (nbits w : Nat) : State :=
  { s with pending := .transaction ((tableEncoded nbits w).transaction s.cfg) :: s.pending }

end Sys2Proof.Machine
end

