-- ==== Sys2Proof/Machine/Assembler.lean ====
section
/-! DEFINITION. The assembler of R78 on parsed lines (log 11): which lines it refuses, and the operation of every other. -/

namespace Sys2Proof.Machine

/-- A parsed `op` of R78, numbers as written. -/
inductive AsmOp where
  | rd (r : Reg)
  | wr (r : Reg) (v : Nat)
  | nop
  | ckStart
  | ckFeed (n : Nat)
  | ckFeedPass (n : Nat)
  | ckAppend
  | frBegin (n : Nat)
  | frPush (n : Nat)
  | frEmit
  | clrErr
deriving DecidableEq, Repr

/-- Why the assembler refuses an op (R78). -/
inductive AsmRefusal where
  /-- An `imm8` above 255. -/
  | imm8TooLarge
  /-- An `imm32` above 0xFFFFFFFF. -/
  | imm32TooLarge
  /-- `WR` to a register without W access, or `RD` of CMD. -/
  | noAccess (r : Reject)
deriving DecidableEq, Repr

/-- What the assembler makes of an op. -/
inductive Assembled where
  | ok (i : Instr)
  | refused (e : AsmRefusal)
deriving DecidableEq, Repr

/-- A register access as an assembler result. -/
def Assembled.ofDecoded : Decoded → Assembled
  | .ok i => .ok i
  | .rejected r => .refused (.noAccess r)

/-- An op with an `imm8` operand. -/
def assembleImm8 (c : Byte → Instr) (n : Nat) : Assembled :=
  if n ≤ 255 then .ok (c (BitVec.ofNat 8 n)) else .refused .imm8TooLarge

/-- The operation an op stands for (R78). -/
def assembleOp : AsmOp → Assembled
  | .rd r => .ofDecoded (readOp r)
  | .wr r v => if v ≤ 0xFFFFFFFF then .ofDecoded (writeOp (BitVec.ofNat 32 v) r) else .refused .imm32TooLarge
  | .nop => .ok .nop
  | .ckStart => .ok .ckStart
  | .ckFeed n => assembleImm8 .ckFeed n
  | .ckFeedPass n => assembleImm8 .ckFeedPass n
  | .ckAppend => .ok .ckAppend
  | .frBegin n => assembleImm8 .frBegin n
  | .frPush n => assembleImm8 .frPush n
  | .frEmit => .ok .frEmit
  | .clrErr => .ok .clrErr

/-- A program: lines in issue order, each with at most one op (a comment is dropped); none where some line is refused (R78). -/
def assemble : List (Option AsmOp) → Option (List Instr)
  | [] => some []
  | none :: ls => assemble ls
  | some op :: ls => match assembleOp op with
    | .ok i => (assemble ls).map (i :: ·)
    | .refused _ => none

end Sys2Proof.Machine
end

