-- ==== Sys2Proof/Machine/Pseudo.lean ====
section
/-! DEFINITION. Sequences of operations and the pseudo-instructions of R79, as the operations they expand to. -/

namespace Sys2Proof.Machine

/-- Perform operations one after another, stopping at the first that does not go on (R60). -/
def execAll : List Instr → State → Host.Outcome State Fault Refusal
  | [], s => .next s
  | i :: is, s => match exec i s with
    | .next t => execAll is t
    | .fault r => .fault r
    | .refused r => .refused r

/-- `SET_WINDOW s, e` (R79). -/
def setWindow (s e : Word) : List Instr := [.wrExclStart s, .wrExclEnd e]

/-- The HDR_BYTES value of header bytes h0, ..., absent ones 0 (R79). -/
def headerWord (hs : List Byte) : Word :=
  (hs.getD 0 0).setWidth 32 <<< 24 ||| (hs.getD 1 0).setWidth 32 <<< 16 ||| (hs.getD 2 0).setWidth 32 <<< 8
    ||| (hs.getD 3 0).setWidth 32

/-- `SET_HEADER h0, ..., h(k-1)` for k at most 4 (R79): HDR_BYTES first, then HDR_CFG. -/
def setHeader (hs : List Byte) : List Instr := [.wrHdrBytes (headerWord hs), .wrHdrCfg (BitVec.ofNat 32 hs.length)]

/-- `CHECKSUM s, e, d0, ...` (R79). -/
def checksumOps (s e : Word) (d : List Byte) : List Instr :=
  setWindow s e ++ .ckStart :: d.map .ckFeed ++ [.rdCrcResult]

/-- `APPEND_CHECKSUM s, e, d0, ...` (R79). -/
def appendChecksumOps (s e : Word) (d : List Byte) : List Instr :=
  setWindow s e ++ .ckStart :: d.map .ckFeedPass ++ [.ckAppend]

/-- `BUILD_FRAME m, p0, ...` (R79). -/
def buildFrameOps (m : Byte) (p : List Byte) : List Instr := .frBegin m :: p.map .frPush ++ [.frEmit]

end Sys2Proof.Machine
end

