-- ==== Sys2Proof/Safety.lean ====
section
/-! DEFINITION. The terms claims about CKFE are stated in: the invariant of its state, which host events it serves, and which
operation an operation performs. -/

namespace Sys2Proof.Machine

/-- The invariant of the state: legal parameters (R6), HDR_LEN 0 to 4 (R31), `PCOUNT = len(PBUF)` at most P_PAYLOAD_CAP (R35),
and FR_OVF only on a full payload (R36, R135). -/
abbrev Inv (s : State) : Prop :=
  s.cfg.Valid ∧ s.hdrLen.toNat ≤ 4 ∧ s.pcount.toNat = s.pbuf.length ∧ s.pbuf.length ≤ s.cfg.pPayloadCap ∧
    (s.frOvf = true → s.pbuf.length = s.cfg.pPayloadCap)

/-- CKFE serves the reset signal and every transaction in its window (R51, R190). -/
abbrev Served (cfg : Config) (e : HostEvent) : Prop :=
  match e with
  | .reset => True
  | .transaction t => cfg.pBase ≤ t.addr ∧ t.addr ≤ cfg.pBase + 0x3F

/-- The operation performed: `WR CMD, w` performs the command w encodes (R25), any other operation itself. -/
def performed : Instr → Instr
  | .wrCmd w => (decodeCommand w).instr
  | i => i

end Sys2Proof.Machine
end

