-- ==== Sys2Proof/Certificates/Slice0/Obligations.lean ====
section
/-! DEFINITION. The statements about CKFE for the provers. Where a statement says an operation answers `.next { s with … }`, every
field not named is unchanged: that equation is the operation's result, its frame and its completion in one. A field `response`
is the bus response R51 gives the transaction; `pending` is the list of host events still to come (log 3). Every statement that
CK_FEED_PASS, CK_APPEND or FR_EMIT completes is of an output port that always accepts (R57, R197; log 7, DEDUCED). -/

open Sys2Proof Sys2Proof.Machine

/-! ### Encoding -/

/-- Every well-formed operation is what its encoding decodes to, in both formats (R71, R74). -/
def Obligations.DecodeInvertsEncode : Prop :=
  ∀ i : Instr, i.wellFormed = true → decode (encode i) = .ok i

/-- Every 32-bit word is the word of the one command it decodes to: no bit of it is dropped (R74, R75). -/
def Obligations.CommandWordInvertsDecode : Prop :=
  ∀ w : Word, commandWord (decodeCommand w) = w

/-- R74: a word selects a command when `(w & mask) = match`, row by row; and no two rows match the same word. -/
def Obligations.OpcodeMapSelectsCommand : Prop :=
  (∀ w : Word,
    (w &&& 0xFFFFFFFF = 0x00000000 → decodeCommand w = .nop) ∧
    (w &&& 0xFFFFFFFF = 0x01000000 → decodeCommand w = .ckStart) ∧
    (w &&& 0xFFFFFF00 = 0x02000000 → decodeCommand w = .ckFeed (w.extractLsb' 0 8)) ∧
    (w &&& 0xFFFFFF00 = 0x03000000 → decodeCommand w = .ckFeedPass (w.extractLsb' 0 8)) ∧
    (w &&& 0xFFFFFFFF = 0x04000000 → decodeCommand w = .ckAppend) ∧
    (w &&& 0xFFFFFF00 = 0x10000000 → decodeCommand w = .frBegin (w.extractLsb' 0 8)) ∧
    (w &&& 0xFFFFFF00 = 0x11000000 → decodeCommand w = .frPush (w.extractLsb' 0 8)) ∧
    (w &&& 0xFFFFFFFF = 0x12000000 → decodeCommand w = .frEmit) ∧
    (w &&& 0xFFFFFFFF = 0x20000000 → decodeCommand w = .clrErr)) ∧
  opcodeMap.Pairwise fun r₁ r₂ => ∀ w : Word, ¬ (w &&& r₁.mask = r₁.word ∧ w &&& r₂.mask = r₂.word)

/-- R162: exactly the words the rule lists are illegal; such a word, written to CMD, sets STATUS.ILL and nothing else. -/
def Obligations.IllegalWordsRaiseIllOnly : Prop :=
  (∀ w : Word, decodeCommand w = .illegal w ↔
    (w.extractLsb' 24 8 ∉ ([0x00, 0x01, 0x02, 0x03, 0x04, 0x10, 0x11, 0x12, 0x20] : List Byte) ∨
      w.extractLsb' 8 16 ≠ 0 ∨
      (w.extractLsb' 0 8 ≠ 0 ∧ w.extractLsb' 24 8 ∉ ([0x02, 0x03, 0x10, 0x11] : List Byte)))) ∧
  (∀ (w : Word) (s : State),
    exec (.illegal w) s = .next { s with status := s.status ||| 0b00001, response := some .okWrite }) ∧
  (∀ (w : Word) (s : State), decodeCommand w = .illegal w →
    exec (.wrCmd w) s = .next { s with status := s.status ||| 0b00001, response := some .okWrite }) ∧
  (∀ w ∈ ([0x02000131, 0x01000001, 0xFF000000] : List Word), decodeCommand w = .illegal w)

/-- Words written out from the encodings of R71, R72 and R74 decode to the operations they stand for, one of each family. -/
def Obligations.SpecWordsDecode : Prop :=
  decode (.command 0b00000000000000000000000000000000) = .ok .nop ∧
  decode (.command 0b00000010000000000000000000110001) = .ok (.ckFeed 0x31) ∧
  decode (.command 0b00010001000000000000000001100011) = .ok (.frPush 99) ∧
  decode (.command 0b00000010000000000000000100110001) = .ok (.illegal 0x02000131) ∧
  decode (.bus .read 0x24 4) = .ok .rdFrState ∧
  decode (.bus (.write 0xDEADBEEF) 0x20 4) = .ok (.wrHdrBytes 0xDEADBEEF) ∧
  decode (.bus (.write 0x02000031) 0x04 4) = .ok (.wrCmd 0x02000031)

/-- R25: a write of w to CMD performs the command w encodes; a read of CMD is a bus error. -/
def Obligations.CmdWritePerformsCommand : Prop :=
  (∀ (w : Word) (s : State),
    ∃ t, exec (.wrCmd w) s = .next t ∧ exec (decodeCommand w).instr s = .next t) ∧
  ∀ (s : State) (es : List HostEvent), s.pending = .transaction ⟨.read, s.cfg.pBase + 0x04, 4⟩ :: es →
    step s = .next { s with pending := es, status := s.status ||| 0b10000, response := some .busErr }

/-! ### The step, the bus and reset -/

/-- When the first pending event is a transaction in the window whose access decodes to an operation, a step is that operation,
the event taken off (R51, R53, R60). -/
def Obligations.StepRunsDecodedOperation : Prop :=
  ∀ (s : State) (t : Transaction) (es : List HostEvent) (i : Instr),
    s.pending = .transaction t :: es → s.cfg.pBase ≤ t.addr → t.addr ≤ s.cfg.pBase + 0x3F →
    decodeBus t.access (t.addr - s.cfg.pBase) t.size = .ok i →
    step s = exec i { s with pending := es }

/-- A step on a 32-bit write of a word to CMD is the command the word decodes to (R25, R75). -/
def Obligations.StepRunsDecodedCommand : Prop :=
  ∀ (s : State) (w : Word) (es : List HostEvent),
    s.pending = .transaction ⟨.write w, s.cfg.pBase + 0x04, 4⟩ :: es →
    step s = exec (decodeCommand w).instr { s with pending := es }

/-- A step on the issue of any well-formed operation is that operation (R70, R78). -/
def Obligations.StepRunsIssuedOperation : Prop :=
  ∀ (s : State) (i : Instr) (es : List HostEvent), i.wellFormed = true → s.pending = issue s.cfg i :: es →
    step s = exec i { s with pending := es }

/-- R53: inside the window exactly the listed transactions are bus errors, whose whole effect is BUSE and BUSERR; a read that is
admitted answers a value and changes nothing, a write that is admitted answers OK. -/
def Obligations.BusErrorsAreExactly : Prop :=
  ∀ (s : State) (t : Transaction) (es : List HostEvent) (off : Nat),
    s.pending = .transaction t :: es → t.addr = s.cfg.pBase + off → off ≤ 0x3F →
    ((t.size ≠ 4 ∨ off % 4 ≠ 0 ∨ off ∈ [0x28, 0x2C, 0x30, 0x34, 0x38, 0x3C] ∨
        ((∃ v, t.access = .write v) ∧ off ∈ [0x00, 0x10, 0x14, 0x18, 0x24]) ∨ (t.access = .read ∧ off = 0x04)) →
      step s = .next { s with pending := es, status := s.status ||| 0b10000, response := some .busErr }) ∧
    (¬ (t.size ≠ 4 ∨ off % 4 ≠ 0 ∨ off ∈ [0x28, 0x2C, 0x30, 0x34, 0x38, 0x3C] ∨
        ((∃ v, t.access = .write v) ∧ off ∈ [0x00, 0x10, 0x14, 0x18, 0x24]) ∨ (t.access = .read ∧ off = 0x04)) →
      (t.access = .read → ∃ v, step s = .next { s with pending := es, response := some (.okRead v) }) ∧
      (∀ v, t.access = .write v → ∃ u, step s = .next u ∧ u.response = some .okWrite))

/-- The model's choice (log 6, from 93_implementation_defined.md section 2): a transaction outside the window is refused by name. -/
def Obligations.OutsideWindowRefused : Prop :=
  ∀ (s : State) (t : Transaction) (es : List HostEvent), s.pending = .transaction t :: es →
    (t.addr < s.cfg.pBase ∨ s.cfg.pBase + 0x3F < t.addr) → step s = .refused .outsideWindow

/-- The model's choice (log 4): with no host event pending, a step leaves the state as it is. -/
def Obligations.IdleStepChangesNothing : Prop :=
  ∀ s : State, s.pending = [] → step s = .next s

/-- R39: the value of every state element after reset, for every value of the parameters. -/
def Obligations.ResetValues : Prop :=
  ∀ cfg : Config,
    (State.resetWith cfg).crcState = 0xFFFFFFFF ∧ (State.resetWith cfg).crcIndex = 0 ∧
    (State.resetWith cfg).exclStart = 0x00000000 ∧ (State.resetWith cfg).exclEnd = 0x00000004 ∧
    (State.resetWith cfg).hdrLen = 2 ∧ (State.resetWith cfg).hdrBytes = 0x56450000 ∧
    (State.resetWith cfg).frModule = 0x00 ∧ (State.resetWith cfg).pbuf = [] ∧ (State.resetWith cfg).pcount = 0 ∧
    (State.resetWith cfg).frOvf = false ∧ (State.resetWith cfg).status = 0 ∧
    State.reset = State.resetWith State.reset.cfg

/-- R190: the reset signal sets every state element to its reset value at once, emits nothing and keeps the bytes already emitted.
What becomes of the model's record of the last response is left open here. -/
def Obligations.ResetSignalRestoresResetValues : Prop :=
  ∀ (s : State) (es : List HostEvent), s.pending = .reset :: es →
    ∃ r, step s = .next
      { crcState := 0xFFFFFFFF, crcIndex := 0, exclStart := 0x00000000, exclEnd := 0x00000004, hdrLen := 2,
        hdrBytes := 0x56450000, frModule := 0x00, pbuf := [], pcount := 0, frOvf := false, status := 0,
        out := s.out, response := r, pending := es, cfg := s.cfg }

/-- The register reads right after reset answer the values of R23's reset column. -/
def Obligations.RegisterReadsAfterReset : Prop :=
  ∀ (cfg : Config), ∀ x ∈ ([(.rdStatus, 0x00000000), (.rdExclStart, 0x00000000), (.rdExclEnd, 0x00000004),
      (.rdCrcState, 0xFFFFFFFF), (.rdCrcResult, 0x00000000), (.rdCrcIndex, 0x00000000), (.rdHdrCfg, 0x00000002),
      (.rdHdrBytes, 0x56450000), (.rdFrState, 0x00000000)] : List (Instr × Word)),
    exec x.1 (State.resetWith cfg) = .next { State.resetWith cfg with response := some (.okRead x.2) }

/-- Where OUT always accepts, a step on the reset signal or on any transaction in the window goes on, taking just that event off: no
error and no state stops CKFE (R112, R170, R173, R191). For the emitting operations CK_FEED_PASS, CK_APPEND and FR_EMIT this rests on
the model's OUT (R57, R197; log 7, DEDUCED): it is a claim about a CKFE whose OUT always drains. -/
def Obligations.ServedEventsComplete : Prop :=
  ∀ (s : State) (e : HostEvent) (es : List HostEvent), s.pending = e :: es → Served s.cfg e →
    ∃ t, step s = .next t ∧ t.pending = es

/-- Where the transport drains OUT, a host that keeps to the window never sees CKFE stop, however long it runs and whatever errors it
causes (R170, R173). The premise is built into the model, whose OUT always accepts (R57, R197; log 7, DEDUCED):
93_implementation_defined.md section 2 says that a claim that a program ends must take "the transport drains OUT" as a premise
(92_eei_decisions.md D14). -/
def Obligations.WindowRunsNeverStop : Prop :=
  ∀ s : State, (∀ e ∈ s.pending, Served s.cfg e) → ∀ n : Nat, ∃ t, Host.Core.run Sys2Proof.core n s = .next t

/-- R60: operations issued by the host are performed one at a time, in issue order, each wholly completed before the next: as many
steps as there are operations give exactly what performing them one after another gives. -/
def Obligations.OperationsRunInIssueOrder : Prop :=
  ∀ (is : List Instr) (s : State) (es : List HostEvent), (∀ i ∈ is, i.wellFormed = true) →
    s.pending = is.map (issue s.cfg) ++ es →
    Host.Core.run Sys2Proof.core is.length s = execAll is { s with pending := es }

/-! ### The checksum function -/

/-- R101: the byte update is eight steps of the bit-serial update, the byte XORed in first; with the rule's examples. -/
def Obligations.CrcByteIsBitSerial : Prop :=
  (∀ (c : Word) (b : Byte), crcByte c b =
    (fun c : Word => if c.getLsbD 0 = true then (c >>> 1) ^^^ 0xEDB88320 else c >>> 1)^[8] (c ^^^ b.setWidth 32)) ∧
  crcByte 0xFFFFFFFF 0x31 = 0x7C231048 ∧ crcByte 0x00000000 0x01 = 0x77073096 ∧
  crcByte 0x00000000 0x80 = 0xEDB88320 ∧ crcByte 0x00000000 0x00 = 0x00000000

/-- R102: the exclusion window is the predicate `s <= i < e`; the corner cases of the rule, each for the checksum. -/
def Obligations.ExclusionWindowCorners : Prop :=
  (∀ i s e : Nat, excluded i s e = true ↔ s ≤ i ∧ i < e) ∧
  (∀ (d : List Byte) (s e : Nat), e ≤ s → checksum d s e = checksum d 0 0) ∧
  (∀ (d : List Byte) (s e : Nat), d.length < e → checksum d s e = checksum (d.take s) 0 0) ∧
  (∀ (d : List Byte) (s e : Nat), d.length ≤ s → checksum d s e = checksum d 0 0)

/-- R103: the checksum is the complement of the running CRC over the bytes with their indices, excluded ones passed over;
of nothing, or of an input that is excluded whole, it is 0. -/
def Obligations.ChecksumFollowsDefinition : Prop :=
  (∀ (d : List Byte) (s e : Nat), checksum d s e =
    ~~~ d.zipIdx.foldl (fun c x => if s ≤ x.2 ∧ x.2 < e then c else crcByte c x.1) 0xFFFFFFFF) ∧
  (∀ s e : Nat, checksum [] s e = 0x00000000) ∧
  (∀ (d : List Byte) (s e : Nat), (∀ i, i < d.length → s ≤ i ∧ i < e) → checksum d s e = 0x00000000)

/-- R104: the checksum is the plain CRC of the bytes that are not excluded; skipping is not feeding 0x00. -/
def Obligations.ChecksumOfKeptBytes : Prop :=
  (∀ (d : List Byte) (s e : Nat), checksum d s e =
    checksum ((d.zipIdx.filter fun x => ! (decide (s ≤ x.2) && decide (x.2 < e))).map Prod.fst) 0 0) ∧
  (∀ (d : List Byte) (s e : Nat), s ≤ e → checksum d s e = checksum (d.take s ++ d.drop e) 0 0) ∧
  checksum [0x00] 0 0 = 0xD202EF8D ∧ checksum [0x00] 0 1 = 0x00000000

/-! ### The CK commands -/

/-- R105: CK_START. -/
def Obligations.CkStartBeginsChecksum : Prop :=
  (∀ w : Word, decodeCommand w = .ckStart ↔ w = 0x01000000) ∧
  ∀ s : State,
    exec .ckStart s = .next { s with crcState := 0xFFFFFFFF, crcIndex := 0, response := some .okWrite } ∧
    execAll [.ckStart, .ckStart] s = execAll [.ckStart] s ∧
    (∃ t, execAll [.ckStart, .rdCrcResult] s = .next t ∧ t.response = some (.okRead 0x00000000)) ∧
    (∃ t, execAll [.ckStart, .rdCrcIndex] s = .next t ∧ t.response = some (.okRead 0))

/-- R106: CK_FEED. -/
def Obligations.CkFeedAccumulatesOutsideWindow : Prop :=
  (∀ b : Byte, decodeCommand (0x02000000 ||| b.setWidth 32) = .ckFeed b) ∧
  (∀ (b : Byte) (s : State), exec (.ckFeed b) s = .next
    { s with
      crcState := if s.exclStart ≤ s.crcIndex ∧ s.crcIndex < s.exclEnd then s.crcState else crcByte s.crcState b
      crcIndex := if s.crcIndex ≠ 0xFFFFFFFF then s.crcIndex + 1 else s.crcIndex
      response := some .okWrite }) ∧
  (∀ (b : Byte) (s : State), s.crcIndex = 0xFFFFFFFF → exec (.ckFeed b) s = .next
    { s with crcState := crcByte s.crcState b, response := some .okWrite }) ∧
  (∀ s : State, s.exclStart = 0 → s.exclEnd = 0 → execAll [.ckStart, .ckFeed 0x31] s = .next
    { s with crcState := 0x7C231048, crcIndex := 1, response := some .okWrite } ∧
    ∃ t, execAll [.ckStart, .ckFeed 0x31, .rdCrcResult] s = .next t ∧ t.response = some (.okRead 0x83DCEFB7)) ∧
  (∀ s : State, s.exclStart = 0 → s.exclEnd = 4 → execAll [.ckStart, .ckFeed 0x31] s = .next
    { s with crcState := 0xFFFFFFFF, crcIndex := 1, response := some .okWrite })

/-- R107: CK_FEED_PASS emits its byte, excluded or not, and has exactly the effect of CK_FEED. -/
def Obligations.CkFeedPassEmitsThenFeeds : Prop :=
  (∀ b : Byte, decodeCommand (0x03000000 ||| b.setWidth 32) = .ckFeedPass b) ∧
  (∀ (b : Byte) (s : State), ∃ t,
    exec (.ckFeed b) s = .next t ∧ exec (.ckFeedPass b) s = .next { t with out := s.out ++ [b] }) ∧
  (∀ s : State, s.exclStart = 0 → s.exclEnd = 4 → execAll [.ckStart, .ckFeedPass 0x56] s = .next
    { s with crcState := 0xFFFFFFFF, crcIndex := 1, out := s.out ++ [0x56], response := some .okWrite })

/-- R108: CK_APPEND emits the complement of CRC_STATE, most significant byte first, and ends nothing. -/
def Obligations.CkAppendEmitsChecksum : Prop :=
  (∀ w : Word, decodeCommand w = .ckAppend ↔ w = 0x04000000) ∧
  (∀ s : State, exec .ckAppend s = .next
    { s with
      out := s.out ++ [(~~~ s.crcState).extractLsb' 24 8, (~~~ s.crcState).extractLsb' 16 8,
        (~~~ s.crcState).extractLsb' 8 8, (~~~ s.crcState).extractLsb' 0 8]
      response := some .okWrite }) ∧
  (∀ s : State, ∃ t, execAll [.ckStart, .ckAppend] s = .next t ∧ t.out = s.out ++ [0x00, 0x00, 0x00, 0x00]) ∧
  (∀ s : State, ∃ t, execAll (setWindow 0 0 ++ [.ckStart, .ckFeed 0x31, .ckFeed 0x32, .ckFeed 0x33, .ckFeed 0x34,
      .ckFeed 0x35, .ckFeed 0x36, .ckFeed 0x37, .ckFeed 0x38, .ckFeed 0x39, .ckAppend]) s = .next t ∧
    t.out = s.out ++ [0xCB, 0xF4, 0x39, 0x26])

/-- Feeding any byte sequence after CK_START, however long, leaves the source's checksum, whose index is unbounded, and the
saturated count (R103, R106, R111): the saturation of CRC_INDEX never shows in the checksum. -/
def Obligations.FeedingComputesChecksum : Prop :=
  ∀ (d : List Byte) (s : State), execAll (.ckStart :: d.map .ckFeed) s = .next
    { s with
      crcState := ~~~ checksum d s.exclStart.toNat s.exclEnd.toNat
      crcIndex := BitVec.ofNat 32 (min d.length 0xFFFFFFFF)
      response := some .okWrite }

/-- R110: the CHECKSUM expansion returns the source's checksum, the APPEND_CHECKSUM expansion emits the data and its checksum, from
any state; and after reset the default window makes CK_START, the passed bytes and CK_APPEND the source's append_checksum. -/
def Obligations.ChecksumExpansionsEqualSource : Prop :=
  (∀ (d : List Byte) (s e : Word) (st : State), d.length ≤ 2 ^ 32 - 1 →
    ∃ t, execAll (checksumOps s e d) st = .next t ∧ t.response = some (.okRead (checksum d s.toNat e.toNat)) ∧
      t.out = st.out) ∧
  (∀ (d : List Byte) (s e : Word) (st : State), d.length ≤ 2 ^ 32 - 1 →
    ∃ t, execAll (appendChecksumOps s e d) st = .next t ∧
      t.out = st.out ++ (d ++ be32 (checksum d s.toNat e.toNat)) ∧
      (d ++ be32 (checksum d s.toNat e.toNat)).length = d.length + 4) ∧
  (∀ (d : List Byte) (cfg : Config), d.length ≤ 2 ^ 32 - 1 →
    ∃ t, execAll (.ckStart :: d.map .ckFeedPass ++ [.ckAppend]) (State.resetWith cfg) = .next t ∧
      t.out = d ++ be32 (checksum d 0 4))

/-- The CK unit's registers are written by CK_START, CK_FEED, CK_FEED_PASS and writes to EXCL_START and EXCL_END alone, and the
window writes leave CRC_STATE and CRC_INDEX (R109; the reset signal is in ResetSignalRestoresResetValues). -/
def Obligations.CkUnitWrittenOnlyByItsOwn : Prop :=
  ∀ (i : Instr) (s t : State), exec i s = .next t →
    (performed i ≠ .ckStart → (∀ b, performed i ≠ .ckFeed b ∧ performed i ≠ .ckFeedPass b) →
      t.crcState = s.crcState ∧ t.crcIndex = s.crcIndex) ∧
    ((∀ v, i ≠ .wrExclStart v) → t.exclStart = s.exclStart) ∧ ((∀ v, i ≠ .wrExclEnd v) → t.exclEnd = s.exclEnd)

/-! ### Register operations -/

/-- R54: every read answers the value its register's rule gives (R24, R26 to R31, R33, R34), changes no state, and answers the same
when repeated. -/
def Obligations.RegisterReadValues : Prop :=
  ∀ s : State, ∀ x ∈ ([(.rdStatus, s.status.setWidth 32), (.rdExclStart, s.exclStart), (.rdExclEnd, s.exclEnd),
      (.rdCrcState, s.crcState), (.rdCrcResult, ~~~ s.crcState), (.rdCrcIndex, s.crcIndex),
      (.rdHdrCfg, s.hdrLen.setWidth 32), (.rdHdrBytes, s.hdrBytes),
      (.rdFrState, s.frModule ++ 0#7 ++ BitVec.ofBool s.frOvf ++ s.pcount)] : List (Instr × Word)),
    exec x.1 s = .next { s with response := some (.okRead x.2) } ∧
    execAll [x.1, x.1] s = .next { s with response := some (.okRead x.2) }

/-- The fields of a STATUS read: ILL, LOVF, FREJ, CFGE and BUSE at bits 0 to 4, and 0 at bits 31:5 (R24). -/
def Obligations.StatusReadFields : Prop :=
  ∀ s : State, ∃ v : Word, exec .rdStatus s = .next { s with response := some (.okRead v) } ∧
    (∀ c : Cause, v.getLsbD c.code = s.status.getLsbD c.code) ∧ v.extractLsb' 5 27 = 0

/-- R34: a read of FR_STATE returns FR_MODULE in bits 31:24, 0 in bits 23:17, FR_OVF in bit 16 and PCOUNT in bits 15:0, with no side
effect; after reset 0x00000000. -/
def Obligations.FrStateReadFields : Prop :=
  (∀ s : State, ∃ v : Word, exec .rdFrState s = .next { s with response := some (.okRead v) } ∧
    v.extractLsb' 24 8 = s.frModule ∧ v.extractLsb' 17 7 = 0 ∧ v.getLsbD 16 = s.frOvf ∧ v.extractLsb' 0 16 = s.pcount) ∧
  ∀ cfg : Config, ∃ t, exec .rdFrState (State.resetWith cfg) = .next t ∧ t.response = some (.okRead 0x00000000)

/-- Writes of EXCL_START and EXCL_END: every value is stored, nothing is refused or altered, nothing else changes (R26, R27). -/
def Obligations.WindowWritesStoreAnyValue : Prop :=
  ∀ (v : Word) (s : State),
    exec (.wrExclStart v) s = .next { s with exclStart := v, response := some .okWrite } ∧
    exec (.wrExclEnd v) s = .next { s with exclEnd := v, response := some .okWrite }

/-- R32: a write of HDR_CFG stores a legal value and refuses any other whole, raising CFGE. -/
def Obligations.HdrCfgWriteChecksValue : Prop :=
  (∀ (v : Word) (s : State), v.extractLsb' 3 29 = 0 ∧ v.extractLsb' 0 3 ≤ 4 →
    exec (.wrHdrCfg v) s = .next { s with hdrLen := v.extractLsb' 0 3, response := some .okWrite }) ∧
  (∀ (v : Word) (s : State), ¬ (v.extractLsb' 3 29 = 0 ∧ v.extractLsb' 0 3 ≤ 4) →
    exec (.wrHdrCfg v) s = .next { s with status := s.status ||| 0b01000, response := some .okWrite }) ∧
  (∀ v : Word, (v.extractLsb' 3 29 = 0 ∧ v.extractLsb' 0 3 ≤ 4) ↔ v.toNat ≤ 4) ∧
  (∀ s : State, ∃ t, exec (.wrHdrCfg 0) s = .next t ∧ t.header = [])

/-- R33: HDR_BYTES stores and reads back every value; the header a frame carries is its bytes 0 to HDR_LEN - 1, byte 0 in bits 31:24;
after reset it is `56 45`. -/
def Obligations.HdrBytesHoldHeader : Prop :=
  (∀ (v : Word) (s : State), exec (.wrHdrBytes v) s = .next { s with hdrBytes := v, response := some .okWrite }) ∧
  (∀ s : State, exec .rdHdrBytes s = .next { s with response := some (.okRead s.hdrBytes) }) ∧
  (∀ s : State, s.header =
    [s.hdrBytes.extractLsb' 24 8, s.hdrBytes.extractLsb' 16 8, s.hdrBytes.extractLsb' 8 8,
      s.hdrBytes.extractLsb' 0 8].take s.hdrLen.toNat) ∧
  (∀ s : State, ∃ t, exec .frEmit s = .next t ∧
    (s.frOvf = false → s.header <+: t.out.drop s.out.length)) ∧
  ∀ cfg : Config, (State.resetWith cfg).hdrBytes = 0x56450000 ∧ (State.resetWith cfg).header = [0x56, 0x45]

/-- Writing EXCL_START, EXCL_END, HDR_CFG or HDR_BYTES twice equals writing it once. Two writes of a word to CMD are, from every state,
the decoded command performed twice, and that is not always what one write does (R55). -/
def Obligations.RegisterWritesAreIdempotent : Prop :=
  (∀ (v : Word) (s : State), ∀ i ∈ ([.wrExclStart v, .wrExclEnd v, .wrHdrCfg v, .wrHdrBytes v] : List Instr),
    ∃ t, execAll [i] s = .next t ∧ execAll [i, i] s = .next t) ∧
  (∀ (w : Word) (s : State),
    ∃ t u, exec (decodeCommand w).instr s = .next t ∧ exec (decodeCommand w).instr t = .next u ∧
      execAll [.wrCmd w] s = .next t ∧ execAll [.wrCmd w, .wrCmd w] s = .next u) ∧
  ∃ (w : Word) (s : State), execAll [.wrCmd w, .wrCmd w] s ≠ execAll [.wrCmd w] s

/-! ### The frame and the FR commands -/

/-- R130: the fields of a frame, at their offsets, for every header length h and payload length n. -/
def Obligations.FrameLayout : Prop :=
  ∀ (hdr : List Byte) (m : Byte) (p : List Byte), p.length ≤ 65535 →
    (buildFrame hdr m p).length = hdr.length + 7 + p.length ∧
    (buildFrame hdr m p).take hdr.length = hdr ∧
    (∃ hi lo : Byte, (buildFrame hdr m p)[hdr.length]? = some hi ∧ (buildFrame hdr m p)[hdr.length + 1]? = some lo ∧
      hi.toNat * 256 + lo.toNat = p.length) ∧
    (buildFrame hdr m p)[hdr.length + 2]? = some m ∧
    ((buildFrame hdr m p).drop (hdr.length + 3)).take p.length = p ∧
    (buildFrame hdr m p).drop (hdr.length + 3 + p.length) =
      be32 (checksum ((buildFrame hdr m p).take (hdr.length + 3 + p.length)) 0 hdr.length)

/-- R142: the frame checksum does not depend on the header: a frame ends in the plain CRC of LENGTH, MODULE_ID and PAYLOAD. -/
def Obligations.FrameChecksumIgnoresHeader : Prop :=
  (∀ (hdr : List Byte) (m : Byte) (p : List Byte),
    (buildFrame hdr m p).drop (hdr.length + 3 + p.length) = be32 (checksum (be16 p.length ++ [m] ++ p) 0 0)) ∧
  (∀ (hdr₁ hdr₂ : List Byte) (m : Byte) (p : List Byte),
    (buildFrame hdr₁ m p).drop (hdr₁.length + 3 + p.length) = (buildFrame hdr₂ m p).drop (hdr₂.length + 3 + p.length)) ∧
  ∀ hdr : List Byte, (buildFrame hdr 0x04 [0x63]).drop (hdr.length + 4) = [0x90, 0x51, 0x40, 0xCD]

/-- R134: FR_BEGIN. -/
def Obligations.FrBeginStartsFrame : Prop :=
  (∀ m : Byte, decodeCommand (0x10000000 ||| m.setWidth 32) = .frBegin m) ∧
  (∀ (m : Byte) (s : State), exec (.frBegin m) s = .next
    { s with frModule := m, pbuf := [], pcount := 0, frOvf := false, response := some .okWrite }) ∧
  ∀ s : State, ∃ t, execAll [.frBegin 0x01, .rdFrState] s = .next t ∧ t.response = some (.okRead 0x01000000)

/-- R135: FR_PUSH appends a byte, or refuses it when the frame is poisoned or the payload full. -/
def Obligations.FrPushAppendsOrRefuses : Prop :=
  (∀ b : Byte, decodeCommand (0x11000000 ||| b.setWidth 32) = .frPush b) ∧
  (∀ (b : Byte) (s : State), s.frOvf = true ∨ s.pcount.toNat = s.cfg.pPayloadCap → exec (.frPush b) s = .next
    { s with frOvf := true, status := s.status ||| 0b00010, response := some .okWrite }) ∧
  (∀ (b : Byte) (s : State), ¬ (s.frOvf = true ∨ s.pcount.toNat = s.cfg.pPayloadCap) → exec (.frPush b) s = .next
    { s with pbuf := s.pbuf ++ [b], pcount := s.pcount + 1, response := some .okWrite }) ∧
  (∀ s : State, s.cfg.Valid → ∃ t, execAll [.frBegin 0x04, .frPush 99, .rdFrState] s = .next t ∧ t.pbuf = [0x63] ∧
    t.response = some (.okRead 0x04000001))

/-- R136: FR_EMIT emits the frame built from the state as it is now, or rejects a poisoned one whole; in both cases the frame state
is cleared and the module kept. -/
def Obligations.FrEmitEmitsOrRejects : Prop :=
  (∀ w : Word, decodeCommand w = .frEmit ↔ w = 0x12000000) ∧
  (∀ s : State, s.frOvf = true → exec .frEmit s = .next
    { s with status := s.status ||| 0b00100, pbuf := [], pcount := 0, frOvf := false, response := some .okWrite }) ∧
  (∀ s : State, s.frOvf = false → exec .frEmit s = .next
    { s with out := s.out ++ buildFrame s.header s.frModule s.pbuf, pbuf := [], pcount := 0, frOvf := false,
             response := some .okWrite }) ∧
  (∀ s : State, s.frOvf = false → ∃ t, execAll [.frEmit, .frEmit] s = .next t ∧
    t.out = s.out ++ buildFrame s.header s.frModule s.pbuf ++ buildFrame s.header s.frModule []) ∧
  (∀ s : State, s.cfg.Valid → 3 ≤ s.cfg.pPayloadCap → s.hdrLen = 2 → s.hdrBytes = 0x56450000 →
    ∃ t, execAll [.frBegin 0x01, .frPush 1, .frPush 12, .frPush 1, .frEmit] s = .next t ∧
      t.out = s.out ++ [0x56, 0x45, 0x00, 0x03, 0x01, 0x01, 0x0C, 0x01, 0x94, 0xAE, 0xA9, 0xBB])

/-- R137: from any state, the expansions of SET_HEADER and BUILD_FRAME append exactly the source's frame to OUT, with its length,
LENGTH and MODULE_ID as the source's testable property 3 says and the checksum exclusion len(header) of property 4. -/
def Obligations.BuildFrameExpansionEqualsSource : Prop :=
  ∀ (hdr : List Byte) (m : Byte) (p : List Byte) (s : State), hdr.length ≤ 4 → s.cfg.Valid →
    p.length ≤ s.cfg.pPayloadCap →
    ∃ t, execAll (setHeader hdr ++ buildFrameOps m p) s = .next t ∧ t.out = s.out ++ buildFrame hdr m p ∧
      (buildFrame hdr m p).length = hdr.length + 2 + 1 + p.length + 4 ∧
      (∃ hi lo : Byte, ((buildFrame hdr m p).drop hdr.length).take 2 = [hi, lo] ∧
        hi.toNat * 256 + lo.toNat = p.length) ∧
      (buildFrame hdr m p)[hdr.length + 2]? = some m ∧
      (buildFrame hdr m p).drop (hdr.length + 3 + p.length) =
        be32 (checksum (hdr ++ be16 p.length ++ [m] ++ p) 0 hdr.length)

/-- An emitted frame's LENGTH is exactly the payload's size and PCOUNT, never truncated or wrapped, from every state that meets the
invariant (R131, R138). -/
def Obligations.EmittedLengthIsExact : Prop :=
  ∀ s : State, Inv s → s.frOvf = false →
    ∃ t hi lo rest, exec .frEmit s = .next t ∧ t.out = s.out ++ s.header ++ hi :: lo :: rest ∧
      hi.toNat * 256 + lo.toNat = s.pbuf.length ∧ hi.toNat * 256 + lo.toNat = s.pcount.toNat

/-- The header a frame carries is the one in force at FR_EMIT, not at FR_BEGIN; writing it in between is no error (R143, R194). -/
def Obligations.HeaderReadAtEmit : Prop :=
  ∀ (s : State) (m : Byte) (v k : Word), k.toNat ≤ 4 →
    execAll [.frBegin m, .wrHdrBytes v, .wrHdrCfg k, .frEmit] s = .next
      { s with
        hdrBytes := v, hdrLen := k.extractLsb' 0 3, frModule := m, pbuf := [], pcount := 0, frOvf := false
        out := s.out ++ buildFrame
          ([v.extractLsb' 24 8, v.extractLsb' 16 8, v.extractLsb' 8 8, v.extractLsb' 0 8].take k.toNat) m []
        response := some .okWrite }

/-- R198: once a push is refused, whatever operations follow (but for FR_BEGIN, which begins another frame, and FR_EMIT), the frame's
FR_EMIT raises FREJ and emits nothing; before it FR_STATE shows FR_OVF, after it STATUS shows FREJ. -/
def Obligations.PoisonedFrameSendsNothing : Prop :=
  ∀ (b : Byte) (is : List Instr) (s : State), s.frOvf = true ∨ s.pcount.toNat = s.cfg.pPayloadCap →
    (∀ i ∈ is, (∀ m, performed i ≠ .frBegin m) ∧ performed i ≠ .frEmit) →
    ∃ t u, execAll (.frPush b :: is) s = .next t ∧ exec .frEmit t = .next u ∧
      u = { t with status := t.status ||| 0b00100, pbuf := [], pcount := 0, frOvf := false, response := some .okWrite } ∧
      (∃ v t', exec .rdFrState t = .next t' ∧ t'.response = some (.okRead v) ∧ v.getLsbD 16 = true) ∧
      ∃ v u', exec .rdStatus u = .next u' ∧ u'.response = some (.okRead v) ∧ v.getLsbD 2 = true

/-- R141: FR_BEGIN, FR_PUSH and FR_EMIT neither write the CK unit's registers nor depend on them. -/
def Obligations.FrUnitLeavesChecksumUnit : Prop :=
  ∀ (i : Instr), ((∃ m, i = .frBegin m) ∨ (∃ b, i = .frPush b) ∨ i = .frEmit) →
    ∀ s : State, ∃ t, exec i s = .next t ∧
      t.crcState = s.crcState ∧ t.crcIndex = s.crcIndex ∧ t.exclStart = s.exclStart ∧ t.exclEnd = s.exclEnd ∧
      ∀ c x a e : Word, exec i { s with crcState := c, crcIndex := x, exclStart := a, exclEnd := e } =
        .next { t with crcState := c, crcIndex := x, exclStart := a, exclEnd := e }

/-- The FR unit's state is written only by its own commands and by writes to HDR_CFG and HDR_BYTES; FR_EMIT keeps the module and
CLR_ERR keeps the poison (R31, R33, R35, R36, R37). -/
def Obligations.FrUnitWrittenOnlyByItsOwn : Prop :=
  ∀ (i : Instr) (s t : State), exec i s = .next t →
    ((∀ v, i ≠ .wrHdrCfg v) → t.hdrLen = s.hdrLen) ∧ ((∀ v, i ≠ .wrHdrBytes v) → t.hdrBytes = s.hdrBytes) ∧
    ((∀ m, performed i ≠ .frBegin m) → t.frModule = s.frModule) ∧
    ((∀ m, performed i ≠ .frBegin m) → (∀ b, performed i ≠ .frPush b) → performed i ≠ .frEmit →
      t.pbuf = s.pbuf ∧ t.pcount = s.pcount ∧ t.frOvf = s.frOvf)

/-! ### Control commands and errors -/

/-- R160: NOP is the word 0 alone and does nothing. -/
def Obligations.NopChangesNothing : Prop :=
  (∀ w : Word, decodeCommand w = .nop ↔ w = 0x00000000) ∧
  (∀ w : Word, w.extractLsb' 24 8 = 0x00 → w ≠ 0x00000000 → decodeCommand w = .illegal w) ∧
  ∀ s : State, exec .nop s = .next { s with response := some .okWrite }

/-- R161: CLR_ERR clears the five error bits and nothing else, FR_OVF in particular. -/
def Obligations.ClrErrClearsStatusOnly : Prop :=
  (∀ w : Word, decodeCommand w = .clrErr ↔ w = 0x20000000) ∧
  (∀ s : State, exec .clrErr s = .next { s with status := 0, response := some .okWrite }) ∧
  ∀ s : State, s.status = 0b00110 →
    ∃ t, execAll [.clrErr, .rdStatus] s = .next t ∧ t.response = some (.okRead 0x00000000) ∧ t.frOvf = s.frOvf

/-- R174: one operation raises at most one cause, each only by its own operation; a command word written with a wrong size raises
BUSE only, whatever the word. -/
def Obligations.AtMostOneCauseRaised : Prop :=
  (∀ (i : Instr) (s t : State), exec i s = .next t → performed i ≠ .clrErr →
    t.status = s.status ∨
    ((∃ w, performed i = .illegal w) ∧ t.status = s.status ||| 0b00001) ∨
    ((∃ b, performed i = .frPush b) ∧ t.status = s.status ||| 0b00010) ∨
    (performed i = .frEmit ∧ t.status = s.status ||| 0b00100) ∨
    ((∃ v, i = .wrHdrCfg v) ∧ t.status = s.status ||| 0b01000)) ∧
  ∀ (s : State) (w : Word) (size : Nat) (es : List HostEvent),
    s.pending = .transaction ⟨.write w, s.cfg.pBase + 0x04, size⟩ :: es → size ≠ 4 →
    step s = .next { s with pending := es, status := s.status ||| 0b10000, response := some .busErr }

/-- Error bits are sticky: a step clears none, but for the reset signal and the write of CLR_ERR (R24, R177). -/
def Obligations.StatusBitsAreSticky : Prop :=
  ∀ (s t : State) (e : HostEvent) (es : List HostEvent), s.pending = e :: es → step s = .next t →
    e ≠ .reset → e ≠ .transaction ⟨.write 0x20000000, s.cfg.pBase + 0x04, 4⟩ →
    ∀ k, s.status.getLsbD k = true → t.status.getLsbD k = true

/-- No operation's effect depends on a STATUS bit: with any other STATUS the operation does the same to everything but STATUS, and only
a read of STATUS answers differently (R40, R173). -/
def Obligations.NoEffectDependsOnStatus : Prop :=
  ∀ (i : Instr) (s : State) (x : BitVec 5), ∃ t u,
    exec i s = .next t ∧ exec i { s with status := x } = .next u ∧
    { u with status := t.status, response := t.response } = t ∧ (i ≠ .rdStatus → u.response = t.response)

/-- R172: the operations that raise no cause, for any operand and in any state, as themselves or as the CMD write of their word. -/
def Obligations.OperationsRaisingNoCause : Prop :=
  (∀ (i : Instr), (performed i = .ckStart ∨ (∃ b, performed i = .ckFeed b) ∨ (∃ b, performed i = .ckFeedPass b) ∨
      performed i = .ckAppend ∨ (∃ m, performed i = .frBegin m) ∨ performed i = .nop ∨ (∃ v, i = .wrExclStart v) ∨
      (∃ v, i = .wrExclEnd v) ∨ (∃ v, i = .wrHdrBytes v)) →
    ∀ s : State, ∃ t, exec i s = .next t ∧ t.status = s.status) ∧
  ∀ (i : Instr) (s : State), performed i = .clrErr → ∃ t, exec i s = .next t ∧ t.status = 0

/-! ### Whole-machine rules -/

/-- OUT only grows, by every step; and of the operations only CK_FEED_PASS, CK_APPEND and FR_EMIT write it (R50, R57). -/
def Obligations.OutputOnlyGrows : Prop :=
  (∀ s t : State, step s = .next t → s.out <+: t.out) ∧
  ∀ (i : Instr) (s t : State), exec i s = .next t → (∀ b, performed i ≠ .ckFeedPass b) → performed i ≠ .ckAppend →
    performed i ≠ .frEmit → t.out = s.out

/-- The parameters are no state: no step changes them (R6, R22). -/
def Obligations.ParametersNeverChange : Prop :=
  ∀ (n : Nat) (s t : State), Host.Core.run Sys2Proof.core n s = .next t → t.cfg = s.cfg

/-- Every step keeps the invariant: HDR_LEN 0 to 4, `PCOUNT = len(PBUF)` at most P_PAYLOAD_CAP at most 65535, and FR_OVF only on a full
payload (R6, R31, R35, R36). -/
def Obligations.StepKeepsInvariant : Prop :=
  ∀ s t : State, Inv s → step s = .next t → Inv t

/-- The invariant holds after reset, for every legal value of the parameters, the model's own among them (R39). -/
def Obligations.InvariantHoldsAtReset : Prop :=
  (∀ cfg : Config, cfg.Valid → Inv (State.resetWith cfg)) ∧ Inv State.reset

/-! ### The assembler -/

/-- The assembler refuses exactly an imm8 above 255, an imm32 above 0xFFFFFFFF, a WR to a register without W access and an RD of CMD;
any other op is one operation, and a command's word is `match | imm8` (R78). -/
def Obligations.AssemblerRefusesExactly : Prop :=
  (∀ op : AsmOp, (∃ e, assembleOp op = .refused e) ↔
    match op with
    | .rd r => r = .cmd
    | .wr r v => 0xFFFFFFFF < v ∨ r ∈ [.status, .crcState, .crcResult, .crcIndex, .frState]
    | .ckFeed n => 255 < n
    | .ckFeedPass n => 255 < n
    | .frBegin n => 255 < n
    | .frPush n => 255 < n
    | .nop => False
    | .ckStart => False
    | .ckAppend => False
    | .frEmit => False
    | .clrErr => False) ∧
  (∀ n : Nat, n ≤ 255 →
    (∃ i, assembleOp (.ckFeed n) = .ok i ∧ encode i = .command (0x02000000 ||| BitVec.ofNat 32 n)) ∧
    (∃ i, assembleOp (.ckFeedPass n) = .ok i ∧ encode i = .command (0x03000000 ||| BitVec.ofNat 32 n)) ∧
    (∃ i, assembleOp (.frBegin n) = .ok i ∧ encode i = .command (0x10000000 ||| BitVec.ofNat 32 n)) ∧
    (∃ i, assembleOp (.frPush n) = .ok i ∧ encode i = .command (0x11000000 ||| BitVec.ofNat 32 n)))
end

