-- ==== Sys2Proof/Laws/Decode.lean ====
section
/-! SUPPORT. The decoders, said once: masks as arithmetic, the command decoder as a chain of tests, the bus decoder by register. -/

namespace Sys2Proof

theorem and_mask_all (w : Word) : w &&& 0xFFFFFFFF#32 = w := BitVec.and_allOnes

theorem and_mask_high (w : Word) : w &&& 0xFFFFFF00#32 = (w >>> 8) <<< 8 := by
  apply BitVec.eq_of_getLsbD_eq
  intro i hi
  interval_cases i <;> simp

/-- A word matches a row with a free IMM8 exactly when its upper 24 bits, as a number, are the row's. -/
theorem and_mask_high_eq_iff (w x : Word) : w &&& 0xFFFFFF00#32 = x ↔ w.toNat / 256 * 256 = x.toNat := by
  rw [and_mask_high, ← BitVec.toNat_inj]
  have hw := w.isLt
  simp only [BitVec.toNat_shiftLeft, BitVec.toNat_ushiftRight, Nat.shiftRight_eq_div_pow, Nat.shiftLeft_eq]
  rw [Nat.mod_eq_of_lt (by omega)]

/-- The command decoder as a chain of tests, in the order of R74. -/
theorem decodeCommand_eq (w : Word) : decodeCommand w =
    if w = 0x00000000#32 then .nop
    else if w = 0x01000000#32 then .ckStart
    else if w &&& 0xFFFFFF00#32 = 0x02000000#32 then .ckFeed (commandOperand w)
    else if w &&& 0xFFFFFF00#32 = 0x03000000#32 then .ckFeedPass (commandOperand w)
    else if w = 0x04000000#32 then .ckAppend
    else if w &&& 0xFFFFFF00#32 = 0x10000000#32 then .frBegin (commandOperand w)
    else if w &&& 0xFFFFFF00#32 = 0x11000000#32 then .frPush (commandOperand w)
    else if w = 0x12000000#32 then .frEmit
    else if w = 0x20000000#32 then .clrErr
    else .illegal w := by
  have row : ∀ (r : OpcodeRow) (rs : List OpcodeRow) (c : Command) (f : OpcodeRow → Command),
      ((r :: rs).find? fun r => w &&& r.mask == r.word).elim c f =
        if w &&& r.mask = r.word then f r else (rs.find? fun r => w &&& r.mask == r.word).elim c f := by
    intro r rs c f
    by_cases h : w &&& r.mask = r.word <;> simp [h]
  have out : decodeCommand w = (opcodeMap.find? fun r => w &&& r.mask == r.word).elim (.illegal w)
      fun r => r.command (commandOperand w) := by
    unfold decodeCommand
    split <;> rename_i h <;> rw [h] <;> rfl
  simp only [out, opcodeMap, row, BitVec.ofNat_eq_ofNat, and_mask_all, List.find?_nil, Option.elim_none]

theorem opField_toNat (w : Word) : (opField w).toNat = w.toNat / 16777216 := by
  have hw := w.isLt
  simp only [opField, BitVec.extractLsb'_toNat, Nat.shiftRight_eq_div_pow]
  omega

theorem rsvField_toNat (w : Word) : (rsvField w).toNat = w.toNat / 256 % 65536 := by
  simp [rsvField, BitVec.extractLsb'_toNat, Nat.shiftRight_eq_div_pow]

theorem immField_toNat (w : Word) : (immField w).toNat = w.toNat % 256 := by
  simp [immField, BitVec.extractLsb'_toNat]

theorem commandOperand_toNat (w : Word) : (commandOperand w).toNat = w.toNat % 256 := immField_toNat w

/-- An illegal word, by its fields (R76), as arithmetic. -/
theorem illegalWord_iff (w : Word) : illegalWord w = true ↔
    ¬ (w.toNat = 0 ∨ w.toNat = 0x01000000 ∨ w.toNat / 256 = 0x020000 ∨ w.toNat / 256 = 0x030000 ∨
      w.toNat = 0x04000000 ∨ w.toNat / 256 = 0x100000 ∨ w.toNat / 256 = 0x110000 ∨ w.toNat = 0x12000000 ∨
      w.toNat = 0x20000000) := by
  have hop := opField_toNat w
  have hrsv := rsvField_toNat w
  have himm := immField_toNat w
  have hw := w.isLt
  simp only [illegalWord, definedOps, operandOps, List.contains_eq_mem, List.mem_cons, List.not_mem_nil, or_false,
    Bool.or_eq_true, Bool.not_eq_true', Bool.and_eq_true, bne_iff_ne, ne_eq, decide_eq_false_iff_not,
    BitVec.ofNat_eq_ofNat, ← BitVec.toNat_inj, hop, hrsv, himm, BitVec.toNat_ofNat]
  omega

/-- The decoder finds no row for a word exactly when the word is illegal by its fields (R75, R76). -/
theorem decodeCommand_of_illegalWord {w : Word} (h : illegalWord w = true) : decodeCommand w = .illegal w := by
  rw [illegalWord_iff] at h
  have hw := w.isLt
  rw [decodeCommand_eq]
  have full : ∀ n : Nat, n < 2 ^ 32 → (w = BitVec.ofNat 32 n ↔ w.toNat = n) := fun n hn => by
    rw [← BitVec.toNat_inj, BitVec.toNat_ofNat, Nat.mod_eq_of_lt hn]
  simp only [and_mask_high_eq_iff, BitVec.toNat_ofNat]
  repeat rw [if_neg (by first | (rw [full _ (by decide)]; omega) | omega)]

/-- The register at an offset has that offset. -/
theorem registerAt_some {off : Nat} {r : Reg} (h : registerAt off = some r) : r.offset = off := by
  have := List.find?_some h
  simpa using this

theorem registerAt_offset (r : Reg) : registerAt r.offset = some r := by
  cases r <;> rfl

theorem reg_offset_aligned (r : Reg) : r.offset % 4 = 0 := by
  cases r <;> rfl

theorem decodeBus_read (r : Reg) : decodeBus .read r.offset 4 = readOp r := by
  simp [decodeBus, registerAt_offset, reg_offset_aligned]

theorem decodeBus_write (r : Reg) (v : Word) : decodeBus (.write v) r.offset 4 = writeOp v r := by
  simp [decodeBus, registerAt_offset, reg_offset_aligned]

end Sys2Proof
end

