-- ==== Sys2Proof/Laws/State.lean ====
section
/-! SUPPORT. One lemma per field per update of the state (LAWS of Machine/Flags.lean and Machine/Ops.lean), each true by rfl. -/

namespace Sys2Proof.Machine

variable (s : State)

/-! ### State.raise -/

@[simp] theorem State.raise_crcState (c : Cause) : (s.raise c).crcState = s.crcState := rfl
@[simp] theorem State.raise_crcIndex (c : Cause) : (s.raise c).crcIndex = s.crcIndex := rfl
@[simp] theorem State.raise_exclStart (c : Cause) : (s.raise c).exclStart = s.exclStart := rfl
@[simp] theorem State.raise_exclEnd (c : Cause) : (s.raise c).exclEnd = s.exclEnd := rfl
@[simp] theorem State.raise_hdrLen (c : Cause) : (s.raise c).hdrLen = s.hdrLen := rfl
@[simp] theorem State.raise_hdrBytes (c : Cause) : (s.raise c).hdrBytes = s.hdrBytes := rfl
@[simp] theorem State.raise_frModule (c : Cause) : (s.raise c).frModule = s.frModule := rfl
@[simp] theorem State.raise_pbuf (c : Cause) : (s.raise c).pbuf = s.pbuf := rfl
@[simp] theorem State.raise_pcount (c : Cause) : (s.raise c).pcount = s.pcount := rfl
@[simp] theorem State.raise_frOvf (c : Cause) : (s.raise c).frOvf = s.frOvf := rfl
@[simp] theorem State.raise_status (c : Cause) : (s.raise c).status = s.status ||| c.bit := rfl
@[simp] theorem State.raise_out (c : Cause) : (s.raise c).out = s.out := rfl
@[simp] theorem State.raise_response (c : Cause) : (s.raise c).response = s.response := rfl
@[simp] theorem State.raise_pending (c : Cause) : (s.raise c).pending = s.pending := rfl
@[simp] theorem State.raise_cfg (c : Cause) : (s.raise c).cfg = s.cfg := rfl

/-! ### State.clearErrors -/

@[simp] theorem State.clearErrors_crcState : (s.clearErrors).crcState = s.crcState := rfl
@[simp] theorem State.clearErrors_crcIndex : (s.clearErrors).crcIndex = s.crcIndex := rfl
@[simp] theorem State.clearErrors_exclStart : (s.clearErrors).exclStart = s.exclStart := rfl
@[simp] theorem State.clearErrors_exclEnd : (s.clearErrors).exclEnd = s.exclEnd := rfl
@[simp] theorem State.clearErrors_hdrLen : (s.clearErrors).hdrLen = s.hdrLen := rfl
@[simp] theorem State.clearErrors_hdrBytes : (s.clearErrors).hdrBytes = s.hdrBytes := rfl
@[simp] theorem State.clearErrors_frModule : (s.clearErrors).frModule = s.frModule := rfl
@[simp] theorem State.clearErrors_pbuf : (s.clearErrors).pbuf = s.pbuf := rfl
@[simp] theorem State.clearErrors_pcount : (s.clearErrors).pcount = s.pcount := rfl
@[simp] theorem State.clearErrors_frOvf : (s.clearErrors).frOvf = s.frOvf := rfl
@[simp] theorem State.clearErrors_status : (s.clearErrors).status = 0 := rfl
@[simp] theorem State.clearErrors_out : (s.clearErrors).out = s.out := rfl
@[simp] theorem State.clearErrors_response : (s.clearErrors).response = s.response := rfl
@[simp] theorem State.clearErrors_pending : (s.clearErrors).pending = s.pending := rfl
@[simp] theorem State.clearErrors_cfg : (s.clearErrors).cfg = s.cfg := rfl

/-! ### State.emit -/

@[simp] theorem State.emit_crcState (bs : List Byte) : (s.emit bs).crcState = s.crcState := rfl
@[simp] theorem State.emit_crcIndex (bs : List Byte) : (s.emit bs).crcIndex = s.crcIndex := rfl
@[simp] theorem State.emit_exclStart (bs : List Byte) : (s.emit bs).exclStart = s.exclStart := rfl
@[simp] theorem State.emit_exclEnd (bs : List Byte) : (s.emit bs).exclEnd = s.exclEnd := rfl
@[simp] theorem State.emit_hdrLen (bs : List Byte) : (s.emit bs).hdrLen = s.hdrLen := rfl
@[simp] theorem State.emit_hdrBytes (bs : List Byte) : (s.emit bs).hdrBytes = s.hdrBytes := rfl
@[simp] theorem State.emit_frModule (bs : List Byte) : (s.emit bs).frModule = s.frModule := rfl
@[simp] theorem State.emit_pbuf (bs : List Byte) : (s.emit bs).pbuf = s.pbuf := rfl
@[simp] theorem State.emit_pcount (bs : List Byte) : (s.emit bs).pcount = s.pcount := rfl
@[simp] theorem State.emit_frOvf (bs : List Byte) : (s.emit bs).frOvf = s.frOvf := rfl
@[simp] theorem State.emit_status (bs : List Byte) : (s.emit bs).status = s.status := rfl
@[simp] theorem State.emit_out (bs : List Byte) : (s.emit bs).out = s.out ++ bs := rfl
@[simp] theorem State.emit_response (bs : List Byte) : (s.emit bs).response = s.response := rfl
@[simp] theorem State.emit_pending (bs : List Byte) : (s.emit bs).pending = s.pending := rfl
@[simp] theorem State.emit_cfg (bs : List Byte) : (s.emit bs).cfg = s.cfg := rfl

/-! ### State.respond -/

@[simp] theorem State.respond_crcState (r : Response) : (s.respond r).crcState = s.crcState := rfl
@[simp] theorem State.respond_crcIndex (r : Response) : (s.respond r).crcIndex = s.crcIndex := rfl
@[simp] theorem State.respond_exclStart (r : Response) : (s.respond r).exclStart = s.exclStart := rfl
@[simp] theorem State.respond_exclEnd (r : Response) : (s.respond r).exclEnd = s.exclEnd := rfl
@[simp] theorem State.respond_hdrLen (r : Response) : (s.respond r).hdrLen = s.hdrLen := rfl
@[simp] theorem State.respond_hdrBytes (r : Response) : (s.respond r).hdrBytes = s.hdrBytes := rfl
@[simp] theorem State.respond_frModule (r : Response) : (s.respond r).frModule = s.frModule := rfl
@[simp] theorem State.respond_pbuf (r : Response) : (s.respond r).pbuf = s.pbuf := rfl
@[simp] theorem State.respond_pcount (r : Response) : (s.respond r).pcount = s.pcount := rfl
@[simp] theorem State.respond_frOvf (r : Response) : (s.respond r).frOvf = s.frOvf := rfl
@[simp] theorem State.respond_status (r : Response) : (s.respond r).status = s.status := rfl
@[simp] theorem State.respond_out (r : Response) : (s.respond r).out = s.out := rfl
@[simp] theorem State.respond_response (r : Response) : (s.respond r).response = some r := rfl
@[simp] theorem State.respond_pending (r : Response) : (s.respond r).pending = s.pending := rfl
@[simp] theorem State.respond_cfg (r : Response) : (s.respond r).cfg = s.cfg := rfl

/-! ### State.startChecksum -/

@[simp] theorem State.startChecksum_crcState : (s.startChecksum).crcState = 0xFFFFFFFF := rfl
@[simp] theorem State.startChecksum_crcIndex : (s.startChecksum).crcIndex = 0 := rfl
@[simp] theorem State.startChecksum_exclStart : (s.startChecksum).exclStart = s.exclStart := rfl
@[simp] theorem State.startChecksum_exclEnd : (s.startChecksum).exclEnd = s.exclEnd := rfl
@[simp] theorem State.startChecksum_hdrLen : (s.startChecksum).hdrLen = s.hdrLen := rfl
@[simp] theorem State.startChecksum_hdrBytes : (s.startChecksum).hdrBytes = s.hdrBytes := rfl
@[simp] theorem State.startChecksum_frModule : (s.startChecksum).frModule = s.frModule := rfl
@[simp] theorem State.startChecksum_pbuf : (s.startChecksum).pbuf = s.pbuf := rfl
@[simp] theorem State.startChecksum_pcount : (s.startChecksum).pcount = s.pcount := rfl
@[simp] theorem State.startChecksum_frOvf : (s.startChecksum).frOvf = s.frOvf := rfl
@[simp] theorem State.startChecksum_status : (s.startChecksum).status = s.status := rfl
@[simp] theorem State.startChecksum_out : (s.startChecksum).out = s.out := rfl
@[simp] theorem State.startChecksum_response : (s.startChecksum).response = s.response := rfl
@[simp] theorem State.startChecksum_pending : (s.startChecksum).pending = s.pending := rfl
@[simp] theorem State.startChecksum_cfg : (s.startChecksum).cfg = s.cfg := rfl

/-! ### State.feed -/

@[simp] theorem State.feed_crcState (b : Byte) :
    (s.feed b).crcState =
      if excluded s.crcIndex.toNat s.exclStart.toNat s.exclEnd.toNat then s.crcState else crcByte s.crcState b := rfl
@[simp] theorem State.feed_crcIndex (b : Byte) : (s.feed b).crcIndex = nextIndex s.crcIndex := rfl
@[simp] theorem State.feed_exclStart (b : Byte) : (s.feed b).exclStart = s.exclStart := rfl
@[simp] theorem State.feed_exclEnd (b : Byte) : (s.feed b).exclEnd = s.exclEnd := rfl
@[simp] theorem State.feed_hdrLen (b : Byte) : (s.feed b).hdrLen = s.hdrLen := rfl
@[simp] theorem State.feed_hdrBytes (b : Byte) : (s.feed b).hdrBytes = s.hdrBytes := rfl
@[simp] theorem State.feed_frModule (b : Byte) : (s.feed b).frModule = s.frModule := rfl
@[simp] theorem State.feed_pbuf (b : Byte) : (s.feed b).pbuf = s.pbuf := rfl
@[simp] theorem State.feed_pcount (b : Byte) : (s.feed b).pcount = s.pcount := rfl
@[simp] theorem State.feed_frOvf (b : Byte) : (s.feed b).frOvf = s.frOvf := rfl
@[simp] theorem State.feed_status (b : Byte) : (s.feed b).status = s.status := rfl
@[simp] theorem State.feed_out (b : Byte) : (s.feed b).out = s.out := rfl
@[simp] theorem State.feed_response (b : Byte) : (s.feed b).response = s.response := rfl
@[simp] theorem State.feed_pending (b : Byte) : (s.feed b).pending = s.pending := rfl
@[simp] theorem State.feed_cfg (b : Byte) : (s.feed b).cfg = s.cfg := rfl

/-! ### State.clearFrame -/

@[simp] theorem State.clearFrame_crcState : (s.clearFrame).crcState = s.crcState := rfl
@[simp] theorem State.clearFrame_crcIndex : (s.clearFrame).crcIndex = s.crcIndex := rfl
@[simp] theorem State.clearFrame_exclStart : (s.clearFrame).exclStart = s.exclStart := rfl
@[simp] theorem State.clearFrame_exclEnd : (s.clearFrame).exclEnd = s.exclEnd := rfl
@[simp] theorem State.clearFrame_hdrLen : (s.clearFrame).hdrLen = s.hdrLen := rfl
@[simp] theorem State.clearFrame_hdrBytes : (s.clearFrame).hdrBytes = s.hdrBytes := rfl
@[simp] theorem State.clearFrame_frModule : (s.clearFrame).frModule = s.frModule := rfl
@[simp] theorem State.clearFrame_pbuf : (s.clearFrame).pbuf = [] := rfl
@[simp] theorem State.clearFrame_pcount : (s.clearFrame).pcount = 0 := rfl
@[simp] theorem State.clearFrame_frOvf : (s.clearFrame).frOvf = false := rfl
@[simp] theorem State.clearFrame_status : (s.clearFrame).status = s.status := rfl
@[simp] theorem State.clearFrame_out : (s.clearFrame).out = s.out := rfl
@[simp] theorem State.clearFrame_response : (s.clearFrame).response = s.response := rfl
@[simp] theorem State.clearFrame_pending : (s.clearFrame).pending = s.pending := rfl
@[simp] theorem State.clearFrame_cfg : (s.clearFrame).cfg = s.cfg := rfl

/-! ### State.setModule -/

@[simp] theorem State.setModule_crcState (m : Byte) : (s.setModule m).crcState = s.crcState := rfl
@[simp] theorem State.setModule_crcIndex (m : Byte) : (s.setModule m).crcIndex = s.crcIndex := rfl
@[simp] theorem State.setModule_exclStart (m : Byte) : (s.setModule m).exclStart = s.exclStart := rfl
@[simp] theorem State.setModule_exclEnd (m : Byte) : (s.setModule m).exclEnd = s.exclEnd := rfl
@[simp] theorem State.setModule_hdrLen (m : Byte) : (s.setModule m).hdrLen = s.hdrLen := rfl
@[simp] theorem State.setModule_hdrBytes (m : Byte) : (s.setModule m).hdrBytes = s.hdrBytes := rfl
@[simp] theorem State.setModule_frModule (m : Byte) : (s.setModule m).frModule = m := rfl
@[simp] theorem State.setModule_pbuf (m : Byte) : (s.setModule m).pbuf = s.pbuf := rfl
@[simp] theorem State.setModule_pcount (m : Byte) : (s.setModule m).pcount = s.pcount := rfl
@[simp] theorem State.setModule_frOvf (m : Byte) : (s.setModule m).frOvf = s.frOvf := rfl
@[simp] theorem State.setModule_status (m : Byte) : (s.setModule m).status = s.status := rfl
@[simp] theorem State.setModule_out (m : Byte) : (s.setModule m).out = s.out := rfl
@[simp] theorem State.setModule_response (m : Byte) : (s.setModule m).response = s.response := rfl
@[simp] theorem State.setModule_pending (m : Byte) : (s.setModule m).pending = s.pending := rfl
@[simp] theorem State.setModule_cfg (m : Byte) : (s.setModule m).cfg = s.cfg := rfl

/-! ### State.pushByte -/

@[simp] theorem State.pushByte_crcState (b : Byte) : (s.pushByte b).crcState = s.crcState := rfl
@[simp] theorem State.pushByte_crcIndex (b : Byte) : (s.pushByte b).crcIndex = s.crcIndex := rfl
@[simp] theorem State.pushByte_exclStart (b : Byte) : (s.pushByte b).exclStart = s.exclStart := rfl
@[simp] theorem State.pushByte_exclEnd (b : Byte) : (s.pushByte b).exclEnd = s.exclEnd := rfl
@[simp] theorem State.pushByte_hdrLen (b : Byte) : (s.pushByte b).hdrLen = s.hdrLen := rfl
@[simp] theorem State.pushByte_hdrBytes (b : Byte) : (s.pushByte b).hdrBytes = s.hdrBytes := rfl
@[simp] theorem State.pushByte_frModule (b : Byte) : (s.pushByte b).frModule = s.frModule := rfl
@[simp] theorem State.pushByte_pbuf (b : Byte) : (s.pushByte b).pbuf = s.pbuf ++ [b] := rfl
@[simp] theorem State.pushByte_pcount (b : Byte) : (s.pushByte b).pcount = s.pcount + 1 := rfl
@[simp] theorem State.pushByte_frOvf (b : Byte) : (s.pushByte b).frOvf = s.frOvf := rfl
@[simp] theorem State.pushByte_status (b : Byte) : (s.pushByte b).status = s.status := rfl
@[simp] theorem State.pushByte_out (b : Byte) : (s.pushByte b).out = s.out := rfl
@[simp] theorem State.pushByte_response (b : Byte) : (s.pushByte b).response = s.response := rfl
@[simp] theorem State.pushByte_pending (b : Byte) : (s.pushByte b).pending = s.pending := rfl
@[simp] theorem State.pushByte_cfg (b : Byte) : (s.pushByte b).cfg = s.cfg := rfl

/-! ### State.poison -/

@[simp] theorem State.poison_crcState : (s.poison).crcState = s.crcState := rfl
@[simp] theorem State.poison_crcIndex : (s.poison).crcIndex = s.crcIndex := rfl
@[simp] theorem State.poison_exclStart : (s.poison).exclStart = s.exclStart := rfl
@[simp] theorem State.poison_exclEnd : (s.poison).exclEnd = s.exclEnd := rfl
@[simp] theorem State.poison_hdrLen : (s.poison).hdrLen = s.hdrLen := rfl
@[simp] theorem State.poison_hdrBytes : (s.poison).hdrBytes = s.hdrBytes := rfl
@[simp] theorem State.poison_frModule : (s.poison).frModule = s.frModule := rfl
@[simp] theorem State.poison_pbuf : (s.poison).pbuf = s.pbuf := rfl
@[simp] theorem State.poison_pcount : (s.poison).pcount = s.pcount := rfl
@[simp] theorem State.poison_frOvf : (s.poison).frOvf = true := rfl
@[simp] theorem State.poison_status : (s.poison).status = s.status := rfl
@[simp] theorem State.poison_out : (s.poison).out = s.out := rfl
@[simp] theorem State.poison_response : (s.poison).response = s.response := rfl
@[simp] theorem State.poison_pending : (s.poison).pending = s.pending := rfl
@[simp] theorem State.poison_cfg : (s.poison).cfg = s.cfg := rfl

/-! ### State.busError -/

@[simp] theorem State.busError_crcState : (s.busError).crcState = s.crcState := rfl
@[simp] theorem State.busError_crcIndex : (s.busError).crcIndex = s.crcIndex := rfl
@[simp] theorem State.busError_exclStart : (s.busError).exclStart = s.exclStart := rfl
@[simp] theorem State.busError_exclEnd : (s.busError).exclEnd = s.exclEnd := rfl
@[simp] theorem State.busError_hdrLen : (s.busError).hdrLen = s.hdrLen := rfl
@[simp] theorem State.busError_hdrBytes : (s.busError).hdrBytes = s.hdrBytes := rfl
@[simp] theorem State.busError_frModule : (s.busError).frModule = s.frModule := rfl
@[simp] theorem State.busError_pbuf : (s.busError).pbuf = s.pbuf := rfl
@[simp] theorem State.busError_pcount : (s.busError).pcount = s.pcount := rfl
@[simp] theorem State.busError_frOvf : (s.busError).frOvf = s.frOvf := rfl
@[simp] theorem State.busError_status : (s.busError).status = s.status ||| Cause.buse.bit := rfl
@[simp] theorem State.busError_out : (s.busError).out = s.out := rfl
@[simp] theorem State.busError_response : (s.busError).response = some .busErr := rfl
@[simp] theorem State.busError_pending : (s.busError).pending = s.pending := rfl
@[simp] theorem State.busError_cfg : (s.busError).cfg = s.cfg := rfl

/-! ### State.resetSignal -/

@[simp] theorem State.resetSignal_crcState : (s.resetSignal).crcState = 0xFFFFFFFF := rfl
@[simp] theorem State.resetSignal_crcIndex : (s.resetSignal).crcIndex = 0 := rfl
@[simp] theorem State.resetSignal_exclStart : (s.resetSignal).exclStart = 0 := rfl
@[simp] theorem State.resetSignal_exclEnd : (s.resetSignal).exclEnd = 4 := rfl
@[simp] theorem State.resetSignal_hdrLen : (s.resetSignal).hdrLen = 2 := rfl
@[simp] theorem State.resetSignal_hdrBytes : (s.resetSignal).hdrBytes = 0x56450000 := rfl
@[simp] theorem State.resetSignal_frModule : (s.resetSignal).frModule = 0 := rfl
@[simp] theorem State.resetSignal_pbuf : (s.resetSignal).pbuf = [] := rfl
@[simp] theorem State.resetSignal_pcount : (s.resetSignal).pcount = 0 := rfl
@[simp] theorem State.resetSignal_frOvf : (s.resetSignal).frOvf = false := rfl
@[simp] theorem State.resetSignal_status : (s.resetSignal).status = 0 := rfl
@[simp] theorem State.resetSignal_out : (s.resetSignal).out = s.out := rfl
@[simp] theorem State.resetSignal_response : (s.resetSignal).response = s.response := rfl
@[simp] theorem State.resetSignal_pending : (s.resetSignal).pending = s.pending := rfl
@[simp] theorem State.resetSignal_cfg : (s.resetSignal).cfg = s.cfg := rfl

end Sys2Proof.Machine
end

