-- ==== Sys2Proof/Laws/Ops.lean ====
section
/-! SUPPORT. What each shared operation does, said once: exclusion window, CRC loop, byte order, frame, counters. -/

namespace Sys2Proof.Machine

/-! ### Exclusion window and CRC loop -/

theorem excluded_iff {i s e : Nat} : excluded i s e = true ↔ s ≤ i ∧ i < e := by
  simp [excluded]

theorem excluded_eq_false_of_end_le {i s e : Nat} (h : e ≤ i) : excluded i s e = false := by
  simp [excluded]; omega

theorem excluded_eq_false_of_lt_start {i s e : Nat} (h : i < s) : excluded i s e = false := by
  simp [excluded]; omega

/-- The CRC loop over a concatenation: the second part starts at the index the first part ends at. -/
theorem crcFrom_append (c : Word) (i s e : Nat) (d d' : List Byte) :
    crcFrom c i s e (d ++ d') = crcFrom (crcFrom c i s e d) (i + d.length) s e d' := by
  induction d generalizing c i with
  | nil => rfl
  | cons b d ih => simp only [List.cons_append, crcFrom, ih, List.length_cons]; congr 1; omega

/-- The CRC loop skips everything when every index met is excluded. -/
theorem crcFrom_of_all_excluded (c : Word) (i s e : Nat) (d : List Byte)
    (h : ∀ k, k < d.length → excluded (i + k) s e = true) : crcFrom c i s e d = c := by
  induction d generalizing i with
  | nil => rfl
  | cons b d ih =>
    have h0 : excluded i s e = true := by simpa using h 0 (by simp)
    simp only [crcFrom, h0, if_true]
    exact ih (i + 1) fun k hk => by simpa [Nat.add_assoc, Nat.add_comm 1 k] using h (k + 1) (by simpa using hk)

/-- Where no index met is excluded, the loop does not depend on the window. -/
theorem crcFrom_of_none_excluded (c : Word) (i s e i' : Nat) (d : List Byte)
    (h : ∀ k, k < d.length → excluded (i + k) s e = false) : crcFrom c i s e d = crcFrom c i' 0 0 d := by
  induction d generalizing c i i' with
  | nil => rfl
  | cons b d ih =>
    have h0 : excluded i s e = false := by simpa using h 0 (by simp)
    have h1 : excluded i' 0 0 = false := excluded_eq_false_of_end_le (Nat.zero_le _)
    simp only [crcFrom, h0, h1]
    exact ih _ (i + 1) (i' + 1) fun k hk => by simpa [Nat.add_assoc, Nat.add_comm 1 k] using h (k + 1) (by simpa using hk)

/-! ### Counters -/

/-- CRC_INDEX counts up to 0xFFFFFFFF and stays there (R163). -/
theorem nextIndex_toNat (i : Word) : (nextIndex i).toNat = min (i.toNat + 1) 0xFFFFFFFF := by
  unfold nextIndex
  split
  · next h => subst h; decide
  · next h =>
    have : i.toNat ≠ 0xFFFFFFFF := fun hn => h (BitVec.eq_of_toNat_eq hn)
    rw [BitVec.toNat_add]
    have hi := i.isLt
    change (i.toNat + 1) % 2 ^ 32 = min (i.toNat + 1) 0xFFFFFFFF
    omega

theorem pushRefused_iff (s : State) :
    s.pushRefused = true ↔ s.frOvf = true ∨ s.pcount.toNat = s.cfg.pPayloadCap := by
  simp [State.pushRefused]

/-! ### Byte order and the frame -/

@[simp] theorem be16_length (n : Nat) : (be16 n).length = 2 := rfl

@[simp] theorem be32_length (x : Word) : (be32 x).length = 4 := rfl

/-- For a count that fits, the two LENGTH bytes are its exact big-endian value (R131, R138). -/
theorem be16_exact (n : Nat) (h : n ≤ 65535) :
    ∃ hi lo : Byte, be16 n = [hi, lo] ∧ hi.toNat * 256 + lo.toNat = n := by
  refine ⟨_, _, rfl, ?_⟩
  simp only [BitVec.toNat_ofNat, Nat.shiftRight_eq_div_pow]
  omega

@[simp] theorem headerBytes_length (v : Word) : (headerBytes v).length = 4 := rfl

theorem framed_length (hdr : List Byte) (m : Byte) (p : List Byte) :
    (framed hdr m p).length = hdr.length + 3 + p.length := by
  simp [framed]; omega

theorem buildFrame_length (hdr : List Byte) (m : Byte) (p : List Byte) :
    (buildFrame hdr m p).length = hdr.length + 7 + p.length := by
  simp [buildFrame, framed_length]; omega

theorem framed_drop_header (hdr : List Byte) (m : Byte) (p : List Byte) :
    (framed hdr m p).drop hdr.length = be16 p.length ++ [m] ++ p := by
  simp [framed]

/-! ### Register values -/

/-- A HDR_CFG value is legal when its reserved bits are 0 and its length is at most 4 (R32). -/
theorem legalHdrCfg_iff (v : Word) : legalHdrCfg v = true ↔ v.extractLsb' 3 29 = 0 ∧ v.extractLsb' 0 3 ≤ 4 := by
  simp [legalHdrCfg]

/-- The bits of FR_STATE (R34). -/
theorem frStateValue_getLsbD (s : State) (k : Nat) : s.frStateValue.getLsbD k =
    if k < 16 then s.pcount.getLsbD k else if k = 16 then s.frOvf
    else if k < 24 then false else s.frModule.getLsbD (k - 24) := by
  rw [State.frStateValue, BitVec.getLsbD_append, BitVec.getLsbD_append, BitVec.getLsbD_append]
  by_cases h1 : k < 16
  · simp only [h1, if_true]
  by_cases h2 : k = 16
  · subst h2; simp
  have h3 : ¬ (k - 16 < 1) := by omega
  simp only [h1, h2, h3, if_false]
  by_cases h4 : k < 24
  · rw [if_pos (show k - 16 - 1 < 7 by omega), if_pos h4]; exact BitVec.getLsbD_zero
  · rw [if_neg (show ¬ k - 16 - 1 < 7 by omega), if_neg h4]; congr 1

/-! ### The window of addresses -/

theorem windowOffset_of_mem {cfg : Config} {addr : Nat} (h : cfg.pBase ≤ addr) (h' : addr ≤ cfg.pBase + 0x3F) :
    windowOffset cfg addr = some (addr - cfg.pBase) := by
  simp [windowOffset, h, h']

theorem windowOffset_add {cfg : Config} {off : Nat} (h : off ≤ 0x3F) :
    windowOffset cfg (cfg.pBase + off) = some off := by
  rw [windowOffset_of_mem (by omega) (by omega)]; congr 1; omega

theorem windowOffset_eq_none_iff {cfg : Config} {addr : Nat} :
    windowOffset cfg addr = none ↔ ¬ (cfg.pBase ≤ addr ∧ addr ≤ cfg.pBase + 0x3F) := by
  simp [windowOffset]

end Sys2Proof.Machine
end

