-- ==== Sys2Proof/Laws/Exec.lean ====
section
/-! SUPPORT. What an operation can do to the state, said once (`exec_effect`), and how operations compose. -/

namespace Sys2Proof.Machine

/-- Everything the operation performed can do to the state, before its bus response is recorded. -/
inductive Effect (s : State) : Instr → State → Prop where
  | unchanged (i : Instr) : Effect s i s
  | illegal (w : Word) : Effect s (.illegal w) (s.raise .ill)
  | cleared : Effect s .clrErr s.clearErrors
  | started : Effect s .ckStart s.startChecksum
  | fed (b : Byte) : Effect s (.ckFeed b) (s.feed b)
  | passed (b : Byte) : Effect s (.ckFeedPass b) ((s.emit [b]).feed b)
  | appended : Effect s .ckAppend (s.emit (be32 s.crcResult))
  | began (m : Byte) : Effect s (.frBegin m) (s.setModule m).clearFrame
  | pushed (b : Byte) (h : s.pushRefused = false) : Effect s (.frPush b) (s.pushByte b)
  | refusedPush (b : Byte) (h : s.pushRefused = true) : Effect s (.frPush b) (s.poison.raise .lovf)
  | emitted (h : s.frOvf = false) : Effect s .frEmit (s.emit s.frame).clearFrame
  | rejected (h : s.frOvf = true) : Effect s .frEmit (s.raise .frej).clearFrame
  | wroteStart (v : Word) : Effect s (.wrExclStart v) { s with exclStart := v }
  | wroteEnd (v : Word) : Effect s (.wrExclEnd v) { s with exclEnd := v }
  | wroteHdrLen (v : Word) (h : legalHdrCfg v = true) : Effect s (.wrHdrCfg v) { s with hdrLen := v.extractLsb' 0 3 }
  | refusedHdrLen (v : Word) (h : legalHdrCfg v = false) : Effect s (.wrHdrCfg v) (s.raise .cfge)
  | wroteHdrBytes (v : Word) : Effect s (.wrHdrBytes v) { s with hdrBytes := v }

theorem execFrPush_effect (b : Byte) (s : State) :
    ∃ u, Effect s (.frPush b) u ∧ execFrPush b s = .next (u.respond .okWrite) := by
  unfold execFrPush
  cases h : s.pushRefused
  · exact ⟨_, .pushed b h, rfl⟩
  · exact ⟨_, .refusedPush b h, rfl⟩

theorem execFrEmit_effect (s : State) : ∃ u, Effect s .frEmit u ∧ execFrEmit s = .next (u.respond .okWrite) := by
  unfold execFrEmit
  cases h : s.frOvf
  · exact ⟨_, .emitted h, rfl⟩
  · exact ⟨_, .rejected h, rfl⟩

theorem execWrHdrCfg_effect (v : Word) (s : State) :
    ∃ u, Effect s (.wrHdrCfg v) u ∧ execWrHdrCfg v s = .next (u.respond .okWrite) := by
  unfold execWrHdrCfg
  cases h : legalHdrCfg v
  · exact ⟨_, .refusedHdrLen v h, rfl⟩
  · exact ⟨_, .wroteHdrLen v h, rfl⟩

theorem performCommand_effect (c : Command) (s : State) :
    ∃ u, Effect s c.instr u ∧ performCommand c s = .next (u.respond .okWrite) := by
  cases c with
  | nop => exact ⟨_, .unchanged _, rfl⟩
  | ckStart => exact ⟨_, .started, rfl⟩
  | ckFeed b => exact ⟨_, .fed b, rfl⟩
  | ckFeedPass b => exact ⟨_, .passed b, rfl⟩
  | ckAppend => exact ⟨_, .appended, rfl⟩
  | frBegin m => exact ⟨_, .began m, rfl⟩
  | frPush b => exact execFrPush_effect b s
  | frEmit => exact execFrEmit_effect s
  | clrErr => exact ⟨_, .cleared, rfl⟩
  | illegal w => exact ⟨_, .illegal w, rfl⟩

/-- Every operation goes on: it has one of the effects, and an OK response. -/
theorem exec_effect (i : Instr) (s : State) :
    ∃ u r, Effect s (performed i) u ∧ r ≠ .busErr ∧ exec i s = .next (u.respond r) := by
  cases i with
  | nop => exact ⟨_, .okWrite, .unchanged _, by simp, rfl⟩
  | ckStart => exact ⟨_, .okWrite, .started, by simp, rfl⟩
  | ckFeed b => exact ⟨_, .okWrite, .fed b, by simp, rfl⟩
  | ckFeedPass b => exact ⟨_, .okWrite, .passed b, by simp, rfl⟩
  | ckAppend => exact ⟨_, .okWrite, .appended, by simp, rfl⟩
  | frBegin m => exact ⟨_, .okWrite, .began m, by simp, rfl⟩
  | frPush b => obtain ⟨u, hu, h⟩ := execFrPush_effect b s; exact ⟨u, .okWrite, hu, by simp, h⟩
  | frEmit => obtain ⟨u, hu, h⟩ := execFrEmit_effect s; exact ⟨u, .okWrite, hu, by simp, h⟩
  | clrErr => exact ⟨_, .okWrite, .cleared, by simp, rfl⟩
  | illegal w => exact ⟨_, .okWrite, .illegal w, by simp, rfl⟩
  | rdStatus => exact ⟨_, .okRead _, .unchanged _, by simp, rfl⟩
  | rdExclStart => exact ⟨_, .okRead _, .unchanged _, by simp, rfl⟩
  | wrExclStart v => exact ⟨_, .okWrite, .wroteStart v, by simp, rfl⟩
  | rdExclEnd => exact ⟨_, .okRead _, .unchanged _, by simp, rfl⟩
  | wrExclEnd v => exact ⟨_, .okWrite, .wroteEnd v, by simp, rfl⟩
  | rdCrcState => exact ⟨_, .okRead _, .unchanged _, by simp, rfl⟩
  | rdCrcResult => exact ⟨_, .okRead _, .unchanged _, by simp, rfl⟩
  | rdCrcIndex => exact ⟨_, .okRead _, .unchanged _, by simp, rfl⟩
  | rdHdrCfg => exact ⟨_, .okRead _, .unchanged _, by simp, rfl⟩
  | wrHdrCfg v => obtain ⟨u, hu, h⟩ := execWrHdrCfg_effect v s; exact ⟨u, .okWrite, hu, by simp, h⟩
  | rdHdrBytes => exact ⟨_, .okRead _, .unchanged _, by simp, rfl⟩
  | wrHdrBytes v => exact ⟨_, .okWrite, .wroteHdrBytes v, by simp, rfl⟩
  | rdFrState => exact ⟨_, .okRead _, .unchanged _, by simp, rfl⟩
  | wrCmd w => obtain ⟨u, hu, h⟩ := performCommand_effect (decodeCommand w) s; exact ⟨u, .okWrite, hu, by simp, h⟩

/-- The inversion of `exec_effect`. -/
theorem exec_next_inv {i : Instr} {s t : State} (h : exec i s = .next t) :
    ∃ u r, Effect s (performed i) u ∧ r ≠ .busErr ∧ t = u.respond r := by
  obtain ⟨u, r, hu, hr, he⟩ := exec_effect i s
  rw [h] at he
  exact ⟨u, r, hu, hr, Host.Outcome.next.inj he⟩

/-- An operation that performs one that no command is, is that operation. -/
theorem eq_of_performed {i j : Instr} (h : performed i = j) (hj : ∀ c : Command, c.instr ≠ j) : i = j := by
  cases i with
  | wrCmd w => exact absurd h (hj _)
  | _ => exact h

/-- No effect touches what is still to come, or the parameters. -/
theorem Effect.pending_cfg {i : Instr} {s u : State} (h : Effect s i u) : u.pending = s.pending ∧ u.cfg = s.cfg := by
  cases h <;> exact ⟨rfl, rfl⟩

/-- The outcome of an operation with other host events still to come. -/
theorem exec_withPending {i : Instr} {s t : State} (p : List HostEvent) (h : exec i s = .next t) :
    exec i { s with pending := p } = .next { t with pending := p } := by
  have push : ∀ (b : Byte) (v : State), execFrPush b s = .next v →
      execFrPush b { s with pending := p } = .next { v with pending := p } := by
    intro b v hv
    have hp : State.pushRefused { s with pending := p } = s.pushRefused := rfl
    unfold execFrPush at hv ⊢
    rw [hp]
    split at hv <;> rename_i hc <;> simp only [hc] <;> cases hv <;> rfl
  have emit : ∀ v : State, execFrEmit s = .next v →
      execFrEmit { s with pending := p } = .next { v with pending := p } := by
    intro v hv
    unfold execFrEmit at hv ⊢
    split at hv <;> rename_i hc <;> simp only [hc] <;> cases hv <;> rfl
  have cfgw : ∀ (w : Word) (v : State), execWrHdrCfg w s = .next v →
      execWrHdrCfg w { s with pending := p } = .next { v with pending := p } := by
    intro w v hv
    unfold execWrHdrCfg at hv ⊢
    split at hv <;> rename_i hc <;> simp only [hc] <;> cases hv <;> rfl
  have cmd : ∀ (c : Command) (v : State), performCommand c s = .next v →
      performCommand c { s with pending := p } = .next { v with pending := p } := by
    intro c v hv
    cases c with
    | frPush b => exact push b v hv
    | frEmit => exact emit v hv
    | _ => cases hv; rfl
  cases i with
  | frPush b => exact push b t h
  | frEmit => exact emit t h
  | wrHdrCfg w => exact cfgw w t h
  | wrCmd w => exact cmd _ t h
  | _ => cases h; rfl

/-! ### Sequences -/

@[simp] theorem execAll_nil (s : State) : execAll [] s = .next s := rfl

theorem execAll_cons_of_next {i : Instr} {s t : State} (is : List Instr) (h : exec i s = .next t) :
    execAll (i :: is) s = execAll is t := by
  simp [execAll, h]

theorem execAll_append_of_next {is : List Instr} {s t : State} (js : List Instr) (h : execAll is s = .next t) :
    execAll (is ++ js) s = execAll js t := by
  induction is generalizing s with
  | nil => cases h; rfl
  | cons i is ih =>
    obtain ⟨u, r, -, -, he⟩ := exec_effect i s
    rw [execAll_cons_of_next _ he] at h
    rw [List.cons_append, execAll_cons_of_next _ he]
    exact ih h

end Sys2Proof.Machine
end

