-- ==== Sys2Proof/Laws/PerInstr.lean ====
section
/-! SUPPORT. The family RoundTrip: per operation, decoding its encoding gives it back (R71, R74, R75). -/

namespace Sys2Proof.Laws.RoundTrip

/-- A well-formed operation is what its encoding decodes to. -/
def Statement (i : Instr) : Prop := i.wellFormed = true → decode (encode i) = .ok i

theorem nop : Statement .nop := fun _ => rfl

theorem ckStart : Statement .ckStart := fun _ => rfl

theorem ckFeed (b : Byte) : Statement (.ckFeed b) := fun _ => by revert b; decide +kernel

theorem ckFeedPass (b : Byte) : Statement (.ckFeedPass b) := fun _ => by revert b; decide +kernel

theorem ckAppend : Statement .ckAppend := fun _ => rfl

theorem frBegin (m : Byte) : Statement (.frBegin m) := fun _ => by revert m; decide +kernel

theorem frPush (b : Byte) : Statement (.frPush b) := fun _ => by revert b; decide +kernel

theorem frEmit : Statement .frEmit := fun _ => rfl

theorem clrErr : Statement .clrErr := fun _ => rfl

theorem illegal (w : Word) : Statement (.illegal w) := fun h =>
  congrArg (fun c : Command => Decoded.ok c.instr) (decodeCommand_of_illegalWord h)

theorem rdStatus : Statement .rdStatus := fun _ => rfl

theorem rdExclStart : Statement .rdExclStart := fun _ => rfl

theorem wrExclStart (v : Word) : Statement (.wrExclStart v) := fun _ => rfl

theorem rdExclEnd : Statement .rdExclEnd := fun _ => rfl

theorem wrExclEnd (v : Word) : Statement (.wrExclEnd v) := fun _ => rfl

theorem rdCrcState : Statement .rdCrcState := fun _ => rfl

theorem rdCrcResult : Statement .rdCrcResult := fun _ => rfl

theorem rdCrcIndex : Statement .rdCrcIndex := fun _ => rfl

theorem rdHdrCfg : Statement .rdHdrCfg := fun _ => rfl

theorem wrHdrCfg (v : Word) : Statement (.wrHdrCfg v) := fun _ => rfl

theorem rdHdrBytes : Statement .rdHdrBytes := fun _ => rfl

theorem wrHdrBytes (v : Word) : Statement (.wrHdrBytes v) := fun _ => rfl

theorem rdFrState : Statement .rdFrState := fun _ => rfl

theorem wrCmd (w : Word) : Statement (.wrCmd w) := fun _ => rfl

end Sys2Proof.Laws.RoundTrip
end

