-- ==== Sys2Proof/Laws/Step.lean ====
section
/-! SUPPORT. What one step can do, said once, and the packaged induction over runs. -/

namespace Sys2Proof.Machine

/-- The ways a step goes on: waiting, the reset signal, an operation, or a bus error. -/
theorem step_next_inv {s t : State} (h : step s = .next t) :
    (s.pending = [] ∧ t = s) ∨
    (∃ es, s.pending = .reset :: es ∧ t = State.resetSignal { s with pending := es }) ∨
    (∃ tr es off i, s.pending = .transaction tr :: es ∧ windowOffset s.cfg tr.addr = some off ∧
      decodeBus tr.access off tr.size = .ok i ∧ exec i { s with pending := es } = .next t) ∨
    (∃ tr es off r, s.pending = .transaction tr :: es ∧ windowOffset s.cfg tr.addr = some off ∧
      decodeBus tr.access off tr.size = .rejected r ∧ t = State.busError { s with pending := es }) := by
  unfold step performNext at h
  split at h
  · next hp => exact .inl ⟨hp, (Host.Outcome.next.inj h).symm⟩
  · next es hp => exact .inr (.inl ⟨es, hp, (Host.Outcome.next.inj h).symm⟩)
  · next tr es hp =>
    unfold busAccess at h
    split at h
    · cases h
    · next off ho =>
      split at h
      · next i hd => exact .inr (.inr (.inl ⟨tr, es, off, i, hp, ho, hd, h⟩))
      · next r hd => exact .inr (.inr (.inr ⟨tr, es, off, r, hp, ho, hd, (Host.Outcome.next.inj h).symm⟩))

theorem step_transaction {s : State} {tr : Transaction} {es : List HostEvent}
    (hp : s.pending = .transaction tr :: es) : step s = busAccess tr { s with pending := es } := by
  simp [step, performNext, hp]

theorem step_reset {s : State} {es : List HostEvent} (hp : s.pending = .reset :: es) :
    step s = .next (State.resetSignal { s with pending := es }) := by
  simp [step, performNext, hp]

/-- A step on an admitted transaction is its operation. -/
theorem step_of_ok {s : State} {tr : Transaction} {es : List HostEvent} {off : Nat} {i : Instr}
    (hp : s.pending = .transaction tr :: es) (ho : windowOffset s.cfg tr.addr = some off)
    (hd : decodeBus tr.access off tr.size = .ok i) : step s = exec i { s with pending := es } := by
  simp [step_transaction hp, busAccess, ho, hd]

/-- A step on a transaction that is not admitted is a bus error. -/
theorem step_of_rejected {s : State} {tr : Transaction} {es : List HostEvent} {off : Nat} {r : Reject}
    (hp : s.pending = .transaction tr :: es) (ho : windowOffset s.cfg tr.addr = some off)
    (hd : decodeBus tr.access off tr.size = .rejected r) :
    step s = .next (State.busError { s with pending := es }) := by
  simp [step_transaction hp, busAccess, ho, hd]

/-- A step on a transaction outside the window is refused. -/
theorem step_of_outside {s : State} {tr : Transaction} {es : List HostEvent}
    (hp : s.pending = .transaction tr :: es) (ho : windowOffset s.cfg tr.addr = none) :
    step s = .refused .outsideWindow := by
  simp [step_transaction hp, busAccess, ho]

/-- A run whose first step goes on is the rest of the run from there. -/
theorem run_succ_of_next {n : Nat} {s t : State} (h : step s = .next t) :
    Host.Core.run Sys2Proof.core (n + 1) s = Host.Core.run Sys2Proof.core n t := by
  have h' : Sys2Proof.core.step s = .next t := h
  simp only [Host.Core.run, h']

/-- A run that goes on goes on at its first step. -/
theorem run_succ_inv {n : Nat} {s t : State} (h : Host.Core.run Sys2Proof.core (n + 1) s = .next t) :
    ∃ u, step s = .next u ∧ Host.Core.run Sys2Proof.core n u = .next t := by
  have h' : Sys2Proof.core.step s = step s := rfl
  simp only [Host.Core.run, h'] at h
  cases he : step s with
  | next u => rw [he] at h; exact ⟨u, rfl, h⟩
  | fault r => rw [he] at h; cases h
  | refused r => rw [he] at h; cases h

/-- What every step keeps, every run keeps. -/
theorem run_keeps (P : State → Prop) (hstep : ∀ s t, P s → step s = .next t → P t) (n : Nat) (s t : State)
    (hs : P s) (h : Host.Core.run Sys2Proof.core n s = .next t) : P t := by
  induction n generalizing s with
  | zero => rw [← Host.Outcome.next.inj (show Host.Outcome.next s = .next t from h)]; exact hs
  | succ n ih =>
    obtain ⟨u, hu, hr⟩ := run_succ_inv h
    exact ih u (hstep s u hs hu) hr

end Sys2Proof.Machine
end

