-- ==== Sys2Proof/Tests/Slice0.lean ====
section
/-! SUPPORT. Tests of the model, each about one step or one function on fixed values, and the witnesses of the obligations'
hypotheses. Expected values are transcribed from spec/95_test_vectors.md (its row names are in the comments) or worked out by hand
from the encodings of R23, R71 and R74. -/

namespace Sys2Proof.Machine.Tests

open Sys2Proof Sys2Proof.Machine

/-- The state an outcome goes on in. -/
def after : Host.Outcome State Fault Refusal → Option State
  | .next s => some s
  | .fault _ => none
  | .refused _ => none

/-- The reset state with the CK registers and the window set: CRC_STATE, CRC_INDEX, EXCL_START, EXCL_END. -/
def ck (c x a e : Word) : State := { State.reset with crcState := c, crcIndex := x, exclStart := a, exclEnd := e }

/-- The reset state with a capacity and a frame under construction: module, payload, FR_OVF. -/
def fr (cap : Nat) (m : Byte) (p : List Byte) (ovf : Bool) : State :=
  { State.reset with cfg := ⟨0, cap⟩, frModule := m, pbuf := p, pcount := BitVec.ofNat 16 p.length, frOvf := ovf }

/-- The reset state with a window base of 64 and host events to come. -/
def hostState (es : List HostEvent) : State := { State.reset with cfg := ⟨64, 2⟩, pending := es }

/-- One transaction at an offset of that window. -/
def at64 (a : Access) (off size : Nat) : State := hostState [.transaction ⟨a, 64 + off, size⟩]

/-! ### WellFormed: the one check refuses an ill-formed term -/

theorem test_wellFormed_refuses_illegal_of_nop : (Instr.illegal 0x00000000).wellFormed = false := by decide
theorem test_wellFormed_refuses_illegal_of_feed : (Instr.illegal 0x020000FF).wellFormed = false := by decide
theorem test_wellFormed_accepts_illegal : (Instr.illegal 0x02000131).wellFormed = true := by decide

/-! ### Decoding: every constructor's encoding, written out bit by bit from R72 and R74, or from R23 and R71 -/

theorem test_decode_nop : decode (.command 0b00000000_0000000000000000_00000000) = .ok .nop := by decide
theorem test_decode_ckStart : decode (.command 0b00000001_0000000000000000_00000000) = .ok .ckStart := by decide
theorem test_decode_ckFeed : decode (.command 0b00000010_0000000000000000_10110001) = .ok (.ckFeed 0xB1) := by decide
theorem test_decode_ckFeedPass : decode (.command 0b00000011_0000000000000000_01010110) = .ok (.ckFeedPass 0x56) := by decide
theorem test_decode_ckAppend : decode (.command 0b00000100_0000000000000000_00000000) = .ok .ckAppend := by decide
theorem test_decode_frBegin : decode (.command 0b00010000_0000000000000000_11111111) = .ok (.frBegin 0xFF) := by decide
theorem test_decode_frPush : decode (.command 0b00010001_0000000000000000_01100011) = .ok (.frPush 99) := by decide
theorem test_decode_frEmit : decode (.command 0b00010010_0000000000000000_00000000) = .ok .frEmit := by decide
theorem test_decode_clrErr : decode (.command 0b00100000_0000000000000000_00000000) = .ok .clrErr := by decide
theorem test_decode_illegal_rsv :
    decode (.command 0b00000010_0000000000000001_00110001) = .ok (.illegal 0x02000131) := by decide
theorem test_decode_illegal_op : decode (.command 0b00000101_0000000000000000_00000000) = .ok (.illegal 0x05000000) := by decide
theorem test_decode_illegal_imm8 :
    decode (.command 0b00100000_0000000000000000_00000001) = .ok (.illegal 0x20000001) := by decide
theorem test_decode_rdStatus : decode (.bus .read 0b000000 4) = .ok .rdStatus := by decide
theorem test_decode_rdExclStart : decode (.bus .read 0b001000 4) = .ok .rdExclStart := by decide
theorem test_decode_wrExclStart : decode (.bus (.write 0x10) 0b001000 4) = .ok (.wrExclStart 0x10) := by decide
theorem test_decode_rdExclEnd : decode (.bus .read 0b001100 4) = .ok .rdExclEnd := by decide
theorem test_decode_wrExclEnd : decode (.bus (.write 0x10) 0b001100 4) = .ok (.wrExclEnd 0x10) := by decide
theorem test_decode_rdCrcState : decode (.bus .read 0b010000 4) = .ok .rdCrcState := by decide
theorem test_decode_rdCrcResult : decode (.bus .read 0b010100 4) = .ok .rdCrcResult := by decide
theorem test_decode_rdCrcIndex : decode (.bus .read 0b011000 4) = .ok .rdCrcIndex := by decide
theorem test_decode_rdHdrCfg : decode (.bus .read 0b011100 4) = .ok .rdHdrCfg := by decide
theorem test_decode_wrHdrCfg : decode (.bus (.write 5) 0b011100 4) = .ok (.wrHdrCfg 5) := by decide
theorem test_decode_rdHdrBytes : decode (.bus .read 0b100000 4) = .ok .rdHdrBytes := by decide
theorem test_decode_wrHdrBytes : decode (.bus (.write 0xDEADBEEF) 0b100000 4) = .ok (.wrHdrBytes 0xDEADBEEF) := by decide
theorem test_decode_rdFrState : decode (.bus .read 0b100100 4) = .ok .rdFrState := by decide
theorem test_decode_wrCmd : decode (.bus (.write 0x12000000) 0b000100 4) = .ok (.wrCmd 0x12000000) := by decide

/-- Rejected by name: section 2.7, rows A2 to A8. -/
theorem test_decode_rejections :
    decode (.bus .read 0x00 2) = .rejected .badSize ∧ decode (.bus .read 0x02 4) = .rejected .misaligned ∧
    decode (.bus .read 0x04 4) = .rejected .notReadable ∧ decode (.bus (.write 0) 0x00 4) = .rejected .notWritable ∧
    decode (.bus (.write 0) 0x14 4) = .rejected .notWritable ∧ decode (.bus .read 0x28 4) = .rejected .reservedOffset ∧
    decode (.bus (.write 0) 0x3C 4) = .rejected .reservedOffset := by decide

/-- The opcode table's numbering: a command word is 32 bits; a register operation is its offset. -/
theorem test_decodeTableWord_command : decodeTableWord 32 0x020000AA = some (.ckFeed 0xAA) := by decide
theorem test_decodeTableWord_bus :
    decodeTableWord 8 0x24 = some .rdFrState ∧ decodeTableWord 8 0x04 = some (.wrCmd 0) ∧
    decodeTableWord 8 0x28 = none ∧ decodeTableWord 8 0x08 = some .rdExclStart ∧
    decodeTableWord 8 0x48 = some (.wrExclStart 0) := by decide
/-- The step after `withFetchWord` runs the word, whatever is still to come. -/
theorem test_withFetchWord :
    after (step (State.reset.withFetchWord 32 0x02000001)) = after (exec (.ckFeed 0x01) State.reset) := by decide +kernel

/-! ### Functions of sections 2.1 and 2.2 -/

theorem test_crcByte :
    crcByte 0x00000000 0x00 = 0x00000000 ∧ crcByte 0x00000000 0x01 = 0x77073096 ∧
    crcByte 0x00000000 0x80 = 0xEDB88320 ∧ crcByte 0xFFFFFFFF 0x00 = 0x2DFD1072 ∧
    crcByte 0xFFFFFFFF 0x31 = 0x7C231048 := by decide +kernel

/-- The nine bytes of section 2.2. -/
def d9 : List Byte := [0x31, 0x32, 0x33, 0x34, 0x35, 0x36, 0x37, 0x38, 0x39]

theorem test_checksum_windows :
    checksum [] 0 4 = 0x00000000 ∧ checksum d9 0 0 = 0xCBF43926 ∧ checksum d9 0 4 = 0x131DA070 ∧
    checksum d9 5 3 = 0xCBF43926 ∧ checksum d9 4 4 = 0xCBF43926 ∧ checksum d9 7 100 = 0x5003699F ∧
    checksum d9 9 12 = 0xCBF43926 ∧ checksum d9 0 9 = 0x00000000 ∧ checksum d9 2 5 = 0x19FBFED6 := by decide +kernel
theorem test_checksum_values :
    checksum [0x00] 0 0 = 0xD202EF8D ∧ checksum [0x00] 0 1 = 0x00000000 ∧ checksum [0xFF] 0 0 = 0xFF000000 ∧
    checksum [0x01] 0 0 = 0xA505DF1B ∧ checksum [0x00, 0x00, 0x00, 0x00] 0 0 = 0x2144DF1C ∧
    checksum [0xFF, 0xFF, 0xFF, 0xFF] 0 0 = 0xFFFFFFFF := by decide +kernel

/-! ### CK commands: section 2.3 -/

/-- C1. -/
theorem test_ckStart : after (exec .ckStart (ck 0x12345678 7 0 4)) =
    some { ck 0xFFFFFFFF 0 0 4 with response := some .okWrite } := by decide
/-- C2, C5 and C6: accumulated, the last at a saturated index. -/
theorem test_ckFeed_accumulated :
    after (exec (.ckFeed 0x31) (ck 0xFFFFFFFF 0 0 0)) = some { ck 0x7C231048 1 0 0 with response := some .okWrite } ∧
    after (exec (.ckFeed 0x00) (ck 0xFFFFFFFF 4 0 4)) = some { ck 0x2DFD1072 5 0 4 with response := some .okWrite } ∧
    after (exec (.ckFeed 0x00) (ck 0xFFFFFFFF 0xFFFFFFFF 0 0xFFFFFFFF)) =
      some { ck 0x2DFD1072 0xFFFFFFFF 0 0xFFFFFFFF with response := some .okWrite } := by decide +kernel
/-- C3, C4 and C7: skipped. -/
theorem test_ckFeed_skipped :
    after (exec (.ckFeed 0x31) (ck 0xFFFFFFFF 0 0 4)) = some { ck 0xFFFFFFFF 1 0 4 with response := some .okWrite } ∧
    after (exec (.ckFeed 0x00) (ck 0xFFFFFFFF 3 0 4)) = some { ck 0xFFFFFFFF 4 0 4 with response := some .okWrite } ∧
    after (exec (.ckFeed 0x00) (ck 0xFFFFFFFF 0xFFFFFFFE 0xFFFFFFFE 0xFFFFFFFF)) =
      some { ck 0xFFFFFFFF 0xFFFFFFFF 0xFFFFFFFE 0xFFFFFFFF with response := some .okWrite } := by decide +kernel
/-- C8. -/
theorem test_ckFeedPass_excluded : after (exec (.ckFeedPass 0x56) (ck 0xFFFFFFFF 0 0 4)) =
    some { ck 0xFFFFFFFF 1 0 4 with out := [0x56], response := some .okWrite } := by decide +kernel
/-- C9. -/
theorem test_ckFeedPass_accumulated : after (exec (.ckFeedPass 0x31) (ck 0xFFFFFFFF 0 0 0)) =
    some { ck 0x7C231048 1 0 0 with out := [0x31], response := some .okWrite } := by decide +kernel
/-- C10. -/
theorem test_ckAppend : after (exec .ckAppend (ck 0x340BC6D9 9 0 0)) =
    some { ck 0x340BC6D9 9 0 0 with out := [0xCB, 0xF4, 0x39, 0x26], response := some .okWrite } := by decide +kernel
/-- C11. -/
theorem test_ckAppend_empty : after (exec .ckAppend (ck 0xFFFFFFFF 0 0 4)) =
    some { ck 0xFFFFFFFF 0 0 4 with out := [0x00, 0x00, 0x00, 0x00], response := some .okWrite } := by decide +kernel

/-! ### Register operations: section 2.4, and reads -/

/-- W2. -/
theorem test_wrExclStart : (after (exec (.wrExclStart 0x10) State.reset)).map State.exclStart = some 0x10 := by decide
/-- W1. -/
theorem test_wrExclEnd : (after (exec (.wrExclEnd 0xFFFFFFFF) State.reset)).map State.exclEnd = some 0xFFFFFFFF := by decide
/-- W3 and W4. -/
theorem test_wrHdrCfg_legal :
    (after (exec (.wrHdrCfg 4) State.reset)).map (fun s => (s.hdrLen, s.status)) = some (4, 0) ∧
    (after (exec (.wrHdrCfg 0) State.reset)).map (fun s => (s.hdrLen, s.status)) = some (0, 0) := by decide
/-- W5, W6 and W7: CFGE is bit 3. -/
theorem test_wrHdrCfg_illegal :
    (after (exec (.wrHdrCfg 5) State.reset)).map (fun s => (s.hdrLen, s.status)) = some (2, 0b01000) ∧
    (after (exec (.wrHdrCfg 0x00000008) State.reset)).map (fun s => (s.hdrLen, s.status)) = some (2, 0b01000) ∧
    (after (exec (.wrHdrCfg 0x00000102) State.reset)).map (fun s => (s.hdrLen, s.status)) = some (2, 0b01000) := by decide
/-- W8. -/
theorem test_wrHdrBytes : (after (exec (.wrHdrBytes 0xDEADBEEF) State.reset)).map (fun s => (s.hdrBytes, s.header)) =
    some (0xDEADBEEF, [0xDE, 0xAD]) := by decide
/-- A read of STATUS shows the five bits at 4:0 (P4: LOVF and FREJ read 0x00000006). -/
theorem test_rdStatus : (after (exec .rdStatus { State.reset with status := 0b00110 })).map State.response =
    some (some (.okRead 0x00000006)) := by decide
theorem test_rdExclStart : (after (exec .rdExclStart (ck 1 2 3 5))).map State.response = some (some (.okRead 3)) := by decide
theorem test_rdExclEnd : (after (exec .rdExclEnd (ck 1 2 3 5))).map State.response = some (some (.okRead 5)) := by decide
/-- P1. -/
theorem test_rdCrcState : (after (exec .rdCrcState (ck 0x340BC6D9 9 0 0))).map State.response =
    some (some (.okRead 0x340BC6D9)) := by decide
/-- P1. -/
theorem test_rdCrcResult : (after (exec .rdCrcResult (ck 0x340BC6D9 9 0 0))).map State.response =
    some (some (.okRead 0xCBF43926)) := by decide
/-- P1. -/
theorem test_rdCrcIndex : (after (exec .rdCrcIndex (ck 0x340BC6D9 9 0 0))).map State.response =
    some (some (.okRead 0x00000009)) := by decide
/-- R23, reset column. -/
theorem test_rdHdrCfg : (after (exec .rdHdrCfg State.reset)).map State.response = some (some (.okRead 0x00000002)) := by decide
/-- R23, reset column. -/
theorem test_rdHdrBytes : (after (exec .rdHdrBytes State.reset)).map State.response =
    some (some (.okRead 0x56450000)) := by decide
/-- B3's FR_STATE after the refused push. -/
theorem test_rdFrState : (after (exec .rdFrState (fr 2 0x03 [0x00, 0x7F] true))).map State.response =
    some (some (.okRead 0x03010002)) := by decide

/-! ### FR commands and frames: section 2.5 -/

/-- F1, F5 and F6. -/
theorem test_buildFrame_default_header :
    buildFrame [0x56, 0x45] 0x01 [0x01, 0x0C, 0x01] =
      [0x56, 0x45, 0x00, 0x03, 0x01, 0x01, 0x0C, 0x01, 0x94, 0xAE, 0xA9, 0xBB] ∧
    buildFrame [0x56, 0x45] 0x00 [0x00, 0x02, 0x01, 0x00, 0x00] =
      [0x56, 0x45, 0x00, 0x05, 0x00, 0x00, 0x02, 0x01, 0x00, 0x00, 0x9C, 0xD1, 0x52, 0x72] ∧
    buildFrame [0x56, 0x45] 0x00 [] = [0x56, 0x45, 0x00, 0x00, 0x00, 0xFF, 0x41, 0xD9, 0x12] := by decide +kernel
/-- F7, F8 and F11: the checksum is the same under every header. -/
theorem test_buildFrame_headers :
    buildFrame [] 0x04 [0x63] = [0x00, 0x01, 0x04, 0x63, 0x90, 0x51, 0x40, 0xCD] ∧
    buildFrame [0xAA] 0x04 [0x63] = [0xAA, 0x00, 0x01, 0x04, 0x63, 0x90, 0x51, 0x40, 0xCD] ∧
    buildFrame [0xDE, 0xAD, 0xBE, 0xEF] 0x04 [0x63] =
      [0xDE, 0xAD, 0xBE, 0xEF, 0x00, 0x01, 0x04, 0x63, 0x90, 0x51, 0x40, 0xCD] := by decide +kernel
/-- B6: FR_BEGIN lifts the poison and leaves STATUS. -/
theorem test_frBegin : after (exec (.frBegin 0x03) { fr 2 0x03 [0x00, 0x7F] true with status := 0b00010 }) =
    some { fr 2 0x03 [] false with status := 0b00010, response := some .okWrite } := by decide
/-- B2. -/
theorem test_frPush : after (exec (.frPush 99) (fr 65535 0x04 [] false)) =
    some { fr 65535 0x04 [99] false with response := some .okWrite } := by decide
/-- B3 and B4. -/
theorem test_frPush_refused :
    after (exec (.frPush 0x55) (fr 2 0x03 [0x00, 0x7F] false)) =
      some { fr 2 0x03 [0x00, 0x7F] true with status := 0b00010, response := some .okWrite } ∧
    after (exec (.frPush 0x00) (fr 2 0x03 [0x00, 0x7F] true)) =
      some { fr 2 0x03 [0x00, 0x7F] true with status := 0b00010, response := some .okWrite } := by decide
/-- B8: an empty payload under the retained module. -/
theorem test_frEmit : after (exec .frEmit (fr 65535 0x04 [] false)) = some { fr 65535 0x04 [] false with
    out := [0x56, 0x45, 0x00, 0x00, 0x04, 0xF8, 0x2C, 0x1D, 0x0B], response := some .okWrite } := by decide +kernel
/-- B5: FREJ is bit 2. -/
theorem test_frEmit_rejected : after (exec .frEmit (fr 2 0x03 [0x00, 0x7F] true)) =
    some { fr 2 0x03 [] false with status := 0b00100, response := some .okWrite } := by decide +kernel

/-! ### Control commands and illegal words: section 2.6 -/

/-- X1. -/
theorem test_nop : after (exec (.wrCmd 0x00000000) (ck 1 2 3 5)) =
    some { ck 1 2 3 5 with response := some .okWrite } := by decide
/-- X2 and X4: ILL is bit 0, nothing is fed. -/
theorem test_wrCmd_illegal :
    after (exec (.wrCmd 0x00000001) State.reset) = some { State.reset with status := 1, response := some .okWrite } ∧
    after (exec (.wrCmd 0x02000131) State.reset) = some { State.reset with status := 1, response := some .okWrite } := by
  decide
/-- X7. -/
theorem test_clrErr : after (exec .clrErr { fr 2 0x03 [0x00, 0x7F] true with status := 0b11111 }) =
    some { fr 2 0x03 [0x00, 0x7F] true with response := some .okWrite } := by decide
/-- X8. -/
theorem test_clrErr_with_operand : (after (exec (.wrCmd 0x20000001) { State.reset with status := 0b10000 })).map State.status =
    some 0b10001 := by decide

/-! ### The bus and the reset signal: section 2.7 -/

/-- A1, at the window's first offset. -/
theorem test_step_read_status : (after (step (at64 .read 0x00 4))).map (fun s => (s.response, s.status)) =
    some (some (.okRead 0), 0) := by decide
/-- A3 and A9: BUSE is bit 4; the word is not decoded. -/
theorem test_step_bus_error :
    (after (step (at64 .read 0x02 4))).map (fun s => (s.response, s.status)) = some (some .busErr, 0b10000) ∧
    (after (step (at64 (.write 0xFF000000) 0x04 2))).map (fun s => (s.response, s.status)) =
      some (some .busErr, 0b10000) := by decide
/-- R190: the reset signal drops the payload and keeps OUT. -/
theorem test_step_reset_signal :
    (after (step { fr 2 0x03 [0x00] false with out := [0xAA], status := 0b11111, pending := [.reset] })).map
      (fun s => (s.pbuf, s.frModule, s.status, s.out)) = some ([], 0x00, 0, [0xAA]) := by decide
/-- Log 6: below and above the window. -/
theorem test_step_outside :
    (step (hostState [.transaction ⟨.read, 63, 4⟩]) matches .refused .outsideWindow) = true ∧
    (step (hostState [.transaction ⟨.read, 128, 4⟩]) matches .refused .outsideWindow) = true := by decide
/-- The assembler's boundaries (R78). -/
theorem test_assemble :
    assembleOp (.ckFeed 255) = .ok (.ckFeed 0xFF) ∧ assembleOp (.ckFeed 256) = .refused .imm8TooLarge ∧
    assembleOp (.wr .exclEnd 0xFFFFFFFF) = .ok (.wrExclEnd 0xFFFFFFFF) ∧
    assembleOp (.wr .exclEnd 0x100000000) = .refused .imm32TooLarge ∧
    assembleOp (.wr .status 0) = .refused (.noAccess .notWritable) ∧
    assembleOp (.rd .cmd) = .refused (.noAccess .notReadable) ∧
    assemble [some .ckStart, none, some (.rd .crcResult)] = some [.ckStart, .rdCrcResult] := by decide

/-! ### Witnesses: values that meet the hypotheses of each statement, clause by clause -/

theorem witness_DecodeInvertsEncode :
    (Instr.frPush 0xFF).wellFormed = true ∧ (Instr.illegal 0xFF000000).wellFormed = true ∧
    (Instr.illegal 0x00000100).wellFormed = true ∧ (Instr.wrCmd 0xFF000000).wellFormed = true := by decide

theorem witness_OpcodeMapSelectsCommand :
    (0x00000000 : Word) &&& 0xFFFFFFFF = 0x00000000 ∧ (0x01000000 : Word) &&& 0xFFFFFFFF = 0x01000000 ∧
    (0x020000FF : Word) &&& 0xFFFFFF00 = 0x02000000 ∧ (0x030000FF : Word) &&& 0xFFFFFF00 = 0x03000000 ∧
    (0x04000000 : Word) &&& 0xFFFFFFFF = 0x04000000 ∧ (0x100000FF : Word) &&& 0xFFFFFF00 = 0x10000000 ∧
    (0x110000FF : Word) &&& 0xFFFFFF00 = 0x11000000 ∧ (0x12000000 : Word) &&& 0xFFFFFFFF = 0x12000000 ∧
    (0x20000000 : Word) &&& 0xFFFFFFFF = 0x20000000 := by decide

/-- A reserved OP, a nonzero RSV at either end of the field, and an operand where none is taken. -/
theorem witness_IllegalWordsRaiseIllOnly :
    decodeCommand 0x21000000 = .illegal 0x21000000 ∧ decodeCommand 0x02000100 = .illegal 0x02000100 ∧
    decodeCommand 0x02800000 = .illegal 0x02800000 ∧ decodeCommand 0x12000080 = .illegal 0x12000080 := by decide

theorem witness_CmdWritePerformsCommand : (at64 .read 0x04 4).pending =
    [.transaction ⟨.read, (at64 .read 0x04 4).cfg.pBase + 0x04, 4⟩] := by decide

/-- At the first register, and at the last. -/
theorem witness_StepRunsDecodedOperation :
    (64 ≤ 64 + 0x00 ∧ 64 + 0x00 ≤ 64 + 0x3F ∧ decodeBus .read (64 + 0x00 - 64) 4 = .ok .rdStatus) ∧
    (64 ≤ 64 + 0x24 ∧ 64 + 0x24 ≤ 64 + 0x3F ∧ decodeBus .read (64 + 0x24 - 64) 4 = .ok .rdFrState) ∧
    (at64 .read 0x24 4).pending = [.transaction ⟨.read, 64 + 0x24, 4⟩] ∧ (at64 .read 0x24 4).cfg.pBase = 64 := by decide

theorem witness_StepRunsDecodedCommand : (at64 (.write 0x020000FF) 0x04 4).pending =
    [.transaction ⟨.write 0x020000FF, (at64 (.write 0x020000FF) 0x04 4).cfg.pBase + 0x04, 4⟩] := by decide

theorem witness_StepRunsIssuedOperation :
    (Instr.illegal 0x05000000).wellFormed = true ∧
    (hostState [issue ⟨64, 2⟩ (.illegal 0x05000000), .reset]).pending =
      issue (hostState []).cfg (.illegal 0x05000000) :: [.reset] := by decide

/-- Each way to be a bus error, at the window's ends, and an admitted read and write at the first and last register. -/
theorem witness_BusErrorsAreExactly :
    (at64 .read 0x3F 4).pending = [.transaction ⟨.read, (at64 .read 0x3F 4).cfg.pBase + 0x3F, 4⟩] ∧
    (0x3F % 4 ≠ 0 ∧ 0x3F ≤ 0x3F) ∧ (3 ≠ 4 ∧ 0x00 % 4 = 0) ∧ 0x3C ∈ [0x28, 0x2C, 0x30, 0x34, 0x38, 0x3C] ∧
    0x24 ∈ [0x00, 0x10, 0x14, 0x18, 0x24] ∧
    (after (step (at64 .read 0x3F 4))).map State.response = some (some .busErr) ∧
    (after (step (at64 .read 0x00 3))).map State.response = some (some .busErr) ∧
    (after (step (at64 .read 0x3C 4))).map State.response = some (some .busErr) ∧
    (after (step (at64 (.write 0) 0x24 4))).map State.response = some (some .busErr) ∧
    (after (step (at64 .read 0x04 4))).map State.response = some (some .busErr) ∧
    (after (step (at64 .read 0x24 4))).map State.response = some (some (.okRead 0)) ∧
    (after (step (at64 (.write 0) 0x20 4))).map State.response = some (some .okWrite) := by decide

theorem witness_OutsideWindowRefused :
    (hostState [.transaction ⟨.read, 63, 4⟩]).pending = [.transaction ⟨.read, 63, 4⟩] ∧ 63 < (hostState []).cfg.pBase ∧
    (hostState [.transaction ⟨.read, 128, 4⟩]).pending = [.transaction ⟨.read, 128, 4⟩] ∧
    (hostState []).cfg.pBase + 0x3F < 128 := by decide

theorem witness_IdleStepChangesNothing : State.reset.pending = [] := by decide

theorem witness_ResetSignalRestoresResetValues : (hostState [.reset]).pending = [.reset] := by decide

theorem witness_ServedEventsComplete :
    Served (hostState []).cfg .reset ∧ Served (hostState []).cfg (.transaction ⟨.read, 64, 4⟩) ∧
    Served (hostState []).cfg (.transaction ⟨.write 0, 127, 1⟩) :=
  ⟨trivial, ⟨by decide, by decide⟩, ⟨by decide, by decide⟩⟩

theorem witness_WindowRunsNeverStop : ∀ e ∈ (hostState [.reset, .transaction ⟨.read, 127, 1⟩]).pending,
    Served (hostState []).cfg e := by
  intro e he
  have h : e = .reset ∨ e = .transaction ⟨.read, 127, 1⟩ := by simpa [hostState] using he
  rcases h with rfl | rfl
  · trivial
  · exact ⟨by decide, by decide⟩

theorem witness_OperationsRunInIssueOrder :
    (∀ i ∈ [Instr.ckStart, .ckFeed 1, .illegal 0xFF000000], i.wellFormed = true) ∧
    (hostState ([Instr.ckStart, .ckFeed 1, .illegal 0xFF000000].map (issue ⟨64, 2⟩) ++ [.reset])).pending =
      [Instr.ckStart, .ckFeed 1, .illegal 0xFF000000].map (issue (hostState []).cfg) ++ [.reset] := by decide

theorem witness_ExclusionWindowCorners : 4 ≤ 4 ∧ d9.length < 10 ∧ d9.length ≤ 9 := by decide

theorem witness_ChecksumFollowsDefinition : ∀ i, i < ([0x31, 0x32] : List Byte).length → 0 ≤ i ∧ i < 2 := by decide

theorem witness_ChecksumOfKeptBytes : 4 ≤ 4 ∧ 0 ≤ 9 := by decide

theorem witness_CkFeedAccumulatesOutsideWindow :
    (ck 0 0xFFFFFFFF 0 4).crcIndex = 0xFFFFFFFF ∧ (ck 0 0 0 0).exclStart = 0 ∧ (ck 0 0 0 0).exclEnd = 0 ∧
    (ck 0 0 0 4).exclStart = 0 ∧ (ck 0 0 0 4).exclEnd = 4 := by decide

theorem witness_CkFeedPassEmitsThenFeeds : State.reset.exclStart = 0 ∧ State.reset.exclEnd = 4 := by decide

theorem witness_ChecksumExpansionsEqualSource :
    ([] : List Byte).length ≤ 2 ^ 32 - 1 ∧ d9.length ≤ 2 ^ 32 - 1 := by decide

/-- A CMD write that is CK_APPEND changes neither the CK registers nor the window, and goes on. -/
theorem witness_CkUnitWrittenOnlyByItsOwn :
    (∃ t, exec (.wrCmd 0x04000000) State.reset = .next t) ∧ performed (.wrCmd 0x04000000) = .ckAppend ∧
    (∃ t, exec (.wrExclStart 5) State.reset = .next t) ∧ performed (.wrExclStart 5) = .wrExclStart 5 :=
  ⟨⟨_, rfl⟩, by decide, ⟨_, rfl⟩, rfl⟩

theorem witness_RegisterReadValues : (Instr.rdCrcResult, (0xCBF43926 : Word)) ∈
    ([(.rdStatus, (ck 0x340BC6D9 9 0 0).status.setWidth 32), (.rdExclStart, (ck 0x340BC6D9 9 0 0).exclStart),
      (.rdCrcResult, ~~~ (ck 0x340BC6D9 9 0 0).crcState)] : List (Instr × Word)) := by decide

theorem witness_HdrCfgWriteChecksValue :
    ((0x00000004 : Word).extractLsb' 3 29 = 0 ∧ (0x00000004 : Word).extractLsb' 0 3 ≤ 4) ∧
    ¬ ((0x00000005 : Word).extractLsb' 3 29 = 0 ∧ (0x00000005 : Word).extractLsb' 0 3 ≤ 4) ∧
    ¬ ((0x00000008 : Word).extractLsb' 3 29 = 0 ∧ (0x00000008 : Word).extractLsb' 0 3 ≤ 4) ∧
    ¬ ((0x80000000 : Word).extractLsb' 3 29 = 0 ∧ (0x80000000 : Word).extractLsb' 0 3 ≤ 4) := by decide

theorem witness_HdrBytesHoldHeader : State.reset.frOvf = false := by decide

theorem witness_RegisterWritesAreIdempotent : Instr.wrHdrCfg 5 ∈
    ([.wrExclStart 5, .wrExclEnd 5, .wrHdrCfg 5, .wrHdrBytes 5] : List Instr) := by decide

theorem witness_RegisterReadsAfterReset : (Instr.rdHdrBytes, (0x56450000 : Word)) ∈
    ([(.rdStatus, 0x00000000), (.rdExclStart, 0x00000000), (.rdExclEnd, 0x00000004), (.rdCrcState, 0xFFFFFFFF),
      (.rdCrcResult, 0x00000000), (.rdCrcIndex, 0x00000000), (.rdHdrCfg, 0x00000002), (.rdHdrBytes, 0x56450000),
      (.rdFrState, 0x00000000)] : List (Instr × Word)) := by decide

theorem witness_FrameLayout :
    ([] : List Byte).length ≤ 65535 ∧ (List.replicate 65535 (0x00 : Byte)).length ≤ 65535 :=
  ⟨Nat.zero_le _, le_of_eq List.length_replicate⟩

/-- Full (cap 2 and, B7, cap 65535), poisoned but not full, and with room; the parameters legal. -/
theorem witness_FrPushAppendsOrRefuses :
    (fr 2 0x03 [0x00, 0x7F] false).pcount.toNat = (fr 2 0x03 [0x00, 0x7F] false).cfg.pPayloadCap ∧
    ({ State.reset with pcount := 65535 } : State).pcount.toNat = State.reset.cfg.pPayloadCap ∧
    (fr 2 0x03 [] true).frOvf = true ∧
    ¬ ((fr 2 0x03 [0x00] false).frOvf = true ∨
      (fr 2 0x03 [0x00] false).pcount.toNat = (fr 2 0x03 [0x00] false).cfg.pPayloadCap) ∧
    (fr 1 0x03 [] false).cfg.Valid ∧ State.reset.cfg.Valid := by decide

theorem witness_FrEmitEmitsOrRejects :
    (fr 2 0x03 [0x00, 0x7F] true).frOvf = true ∧ (fr 3 0x03 [] false).frOvf = false ∧
    (fr 3 0x03 [] false).cfg.Valid ∧ 3 ≤ (fr 3 0x03 [] false).cfg.pPayloadCap ∧ (fr 3 0x03 [] false).hdrLen = 2 ∧
    (fr 3 0x03 [] false).hdrBytes = 0x56450000 := by decide

/-- The longest header, and the shortest; a payload that fills the buffer, and an empty one. -/
theorem witness_BuildFrameExpansionEqualsSource :
    ([0xDE, 0xAD, 0xBE, 0xEF] : List Byte).length ≤ 4 ∧ ([] : List Byte).length ≤ 4 ∧
    (fr 2 0x03 [] false).cfg.Valid ∧ ([0x00, 0x7F] : List Byte).length ≤ (fr 2 0x03 [] false).cfg.pPayloadCap ∧
    ([] : List Byte).length ≤ (fr 2 0x03 [] false).cfg.pPayloadCap := by decide

theorem witness_EmittedLengthIsExact :
    Inv (fr 2 0x03 [0x00, 0x7F] false) ∧ (fr 2 0x03 [0x00, 0x7F] false).frOvf = false := by decide

theorem witness_HeaderReadAtEmit : (0x00000000 : Word).toNat ≤ 4 ∧ (0x00000004 : Word).toNat ≤ 4 := by decide

/-- A full payload, and a poisoned one; then pushes, CLR_ERR and a CMD write that is CK_START. -/
theorem witness_PoisonedFrameSendsNothing :
    ((fr 2 0x03 [0x00, 0x7F] false).frOvf = true ∨
      (fr 2 0x03 [0x00, 0x7F] false).pcount.toNat = (fr 2 0x03 [0x00, 0x7F] false).cfg.pPayloadCap) ∧
    (fr 2 0x03 [0x00, 0x7F] true).frOvf = true ∧
    ∀ i ∈ [Instr.frPush 0x55, .clrErr, .wrCmd 0x01000000], (∀ m, performed i ≠ .frBegin m) ∧ performed i ≠ .frEmit := by
  refine ⟨by decide, by decide, ?_⟩
  intro i hi
  simp only [List.mem_cons, List.not_mem_nil, or_false] at hi
  rcases hi with rfl | rfl | rfl
  · exact ⟨fun m h => (by cases h), by decide⟩
  · exact ⟨fun m h => (by cases h), by decide⟩
  · have h : performed (.wrCmd 0x01000000) = .ckStart := by decide
    exact ⟨fun m hm => (by rw [h] at hm; cases hm), by decide⟩

theorem witness_FrUnitLeavesChecksumUnit :
    (∃ m, Instr.frBegin 0xFF = .frBegin m) ∧ (∃ b, Instr.frPush 0xFF = .frPush b) ∧ Instr.frEmit = .frEmit :=
  ⟨⟨_, rfl⟩, ⟨_, rfl⟩, rfl⟩

/-- CLR_ERR leaves all of the FR unit, FR_EMIT its module. -/
theorem witness_FrUnitWrittenOnlyByItsOwn :
    (∃ t, exec (.wrCmd 0x20000000) (fr 2 0x03 [0x00, 0x7F] true) = .next t) ∧ performed (.wrCmd 0x20000000) = .clrErr ∧
    (∃ t, exec .frEmit (fr 2 0x03 [] false) = .next t) ∧ performed .frEmit = .frEmit :=
  ⟨⟨_, rfl⟩, by decide, ⟨_, rfl⟩, rfl⟩

theorem witness_NopChangesNothing :
    (0x00000001 : Word).extractLsb' 24 8 = 0x00 ∧ (0x00000001 : Word) ≠ 0x00000000 ∧
    (0x00800000 : Word).extractLsb' 24 8 = 0x00 ∧ (0x00800000 : Word) ≠ 0x00000000 := by decide

theorem witness_ClrErrClearsStatusOnly : ({ fr 2 0x03 [0x00, 0x7F] true with status := 0b00110 } : State).status = 0b00110 := by
  decide

/-- An operation that raises each cause, and a CMD write of a wrong size. -/
theorem witness_AtMostOneCauseRaised :
    (∃ t, exec (.illegal 0x05000000) State.reset = .next t) ∧ (∃ t, exec (.frPush 1) (fr 2 0x03 [] true) = .next t) ∧
    (∃ t, exec .frEmit (fr 2 0x03 [] true) = .next t) ∧ (∃ t, exec (.wrHdrCfg 5) State.reset = .next t) ∧
    performed (.wrHdrCfg 5) ≠ .clrErr ∧
    (at64 (.write 0xFF000000) 0x04 2).pending =
      [.transaction ⟨.write 0xFF000000, (at64 (.write 0xFF000000) 0x04 2).cfg.pBase + 0x04, 2⟩] :=
  ⟨⟨_, rfl⟩, ⟨_, rfl⟩, ⟨_, rfl⟩, ⟨_, rfl⟩, by decide, by decide⟩

/-- STATUS bits stand over a write of FR_BEGIN; CLR_ERR of a wrong size does not clear them. -/
theorem witness_StatusBitsAreSticky :
    (∃ t, step { at64 (.write 0x10000003) 0x04 4 with status := 0b00010 } = .next t) ∧
    (∃ t, step { at64 (.write 0x20000000) 0x04 2 with status := 0b00010 } = .next t) ∧
    HostEvent.transaction ⟨.write 0x20000000, 64 + 0x04, 2⟩ ≠ .transaction ⟨.write 0x20000000, 64 + 0x04, 4⟩ ∧
    (0b00010 : BitVec 5).getLsbD 1 = true :=
  ⟨⟨_, rfl⟩, ⟨_, rfl⟩, by decide, by decide⟩

theorem witness_OperationsRaisingNoCause :
    (∃ b, performed (.ckFeed 0xFF) = .ckFeed b) ∧ performed (.wrCmd 0x04000000) = .ckAppend ∧
    (∃ v, Instr.wrHdrBytes 0xFFFFFFFF = .wrHdrBytes v) ∧ performed (.wrCmd 0x20000000) = .clrErr :=
  ⟨⟨_, rfl⟩, by decide, ⟨_, rfl⟩, by decide⟩

theorem witness_OutputOnlyGrows :
    (∃ t, step (at64 (.write 0x03000056) 0x04 4) = .next t) ∧ (∃ t, exec (.frPush 1) State.reset = .next t) ∧
    performed (.frPush 1) ≠ .ckAppend ∧ performed (.frPush 1) ≠ .frEmit ∧
    ∀ b, performed (.frPush 1) ≠ .ckFeedPass b :=
  ⟨⟨_, rfl⟩, ⟨_, rfl⟩, by decide, by decide, fun _ h => by cases h⟩

theorem witness_ParametersNeverChange : ∃ t, Host.Core.run Sys2Proof.core 1 (at64 .read 0x00 4) = .next t := ⟨_, rfl⟩

/-- The push that fills the buffer, and the push that overflows it, keep the invariant. -/
theorem witness_StepKeepsInvariant :
    Inv { at64 (.write 0x11000055) 0x04 4 with pbuf := [0x00], pcount := 1 } ∧
    (∃ t, step { at64 (.write 0x11000055) 0x04 4 with pbuf := [0x00], pcount := 1 } = .next t) ∧
    Inv { at64 (.write 0x11000055) 0x04 4 with pbuf := [0x00, 0x7F], pcount := 2 } ∧
    (∃ t, step { at64 (.write 0x11000055) 0x04 4 with pbuf := [0x00, 0x7F], pcount := 2 } = .next t) :=
  ⟨by decide, ⟨_, rfl⟩, by decide, ⟨_, rfl⟩⟩

theorem witness_InvariantHoldsAtReset : (⟨64, 1⟩ : Config).Valid ∧ (⟨0, 65535⟩ : Config).Valid := by decide

theorem witness_AssemblerRefusesExactly : 255 ≤ 255 ∧ 0 ≤ 255 ∧ 255 < 256 ∧ 0xFFFFFFFF < 0x100000000 := by decide

end Sys2Proof.Machine.Tests
end

section
/-! SUPPORT. The scope statements (spec/00_scope.md, R6): the parameters are constant, and the invariant of the state holds at
reset and is kept by every step. Each rests on one lemma per kind of effect an operation can have (`exec_effect`). -/

namespace Sys2Proof.Machine

/-! ### The parameters (R6) -/

theorem exec_keeps_cfg {i : Instr} {s t : State} (h : exec i s = .next t) : t.cfg = s.cfg := by
  obtain ⟨u, r, hu, -, rfl⟩ := exec_next_inv h
  exact hu.pending_cfg.2

theorem step_keeps_cfg {s t : State} (h : step s = .next t) : t.cfg = s.cfg := by
  obtain ⟨-, rfl⟩ | ⟨es, -, rfl⟩ | ⟨tr, es, off, i, -, -, -, he⟩ | ⟨tr, es, off, r, -, -, -, rfl⟩ := step_next_inv h
  · rfl
  · rfl
  · exact exec_keeps_cfg (s := { s with pending := es }) he
  · rfl

/-- Settles O55: no step changes the parameters, so no run does. -/
theorem parametersNeverChange : Obligations.ParametersNeverChange := fun n s t h =>
  run_keeps (fun u => u.cfg = s.cfg) (fun _ _ hu hs => (step_keeps_cfg hs).trans hu) n s t rfl h

/-! ### The invariant at reset -/

theorem inv_resetWith {cfg : Config} (h : cfg.Valid) : Inv (State.resetWith cfg) :=
  ⟨h, show (2#3).toNat ≤ 4 by decide, rfl, Nat.zero_le _, by simp [State.resetWith]⟩

/-- Settles O57: the payload is empty and HDR_LEN is 2 after reset. -/
theorem invariantHoldsAtReset : Obligations.InvariantHoldsAtReset :=
  ⟨fun _ => inv_resetWith, inv_resetWith (cfg := Config.recommended) (by decide)⟩

/-! ### The invariant under the operations that write one of its fields -/

section
variable {s : State} (h : Inv s)
include h

theorem Inv.resetSignal : Inv s.resetSignal := inv_resetWith h.1

theorem Inv.clearFrame : Inv s.clearFrame := by
  obtain ⟨hcfg, hhdr, -⟩ := h
  exact ⟨hcfg, hhdr, rfl, Nat.zero_le _, by simp⟩

/-- A byte that is accepted still fits: the count is below P_PAYLOAD_CAP, at most 65535, so its 16 bits do not wrap (R35). -/
theorem Inv.pushByte (b : Byte) (hr : s.pushRefused = false) : Inv (s.pushByte b) := by
  obtain ⟨hcfg, hhdr, hcount, hcap, -⟩ := h
  obtain ⟨hovf, hroom⟩ : s.frOvf = false ∧ s.pcount.toNat ≠ s.cfg.pPayloadCap := by
    simpa [State.pushRefused] using hr
  have hnext : (s.pcount + 1).toNat = s.pcount.toNat + 1 := BitVec.toNat_add_of_lt (by simp; omega)
  refine ⟨hcfg, hhdr, ?_, ?_, by simp [hovf]⟩
  · rw [State.pushByte_pcount, hnext, hcount, State.pushByte_pbuf, List.length_append, List.length_singleton]
  · simp; omega

/-- A frame is poisoned only when its payload is full: a push is refused for that, or because it already is poisoned (R36, R135). -/
theorem Inv.poison (hr : s.pushRefused = true) : Inv s.poison := by
  obtain ⟨hcfg, hhdr, hcount, hcap, hfull⟩ := h
  refine ⟨hcfg, hhdr, hcount, hcap, fun _ => ?_⟩
  rcases (pushRefused_iff s).mp hr with hovf | hpc
  · exact hfull hovf
  · exact hcount.symm.trans hpc

theorem Inv.setHdrLen {v : Word} (hv : legalHdrCfg v = true) : Inv { s with hdrLen := v.extractLsb' 0 3 } := by
  obtain ⟨hcfg, -, hframe⟩ := h
  exact ⟨hcfg, BitVec.le_def.mp ((legalHdrCfg_iff v).mp hv).2, hframe⟩

/-! ### The invariant under every operation and every step -/

theorem Inv.of_effect {i : Instr} {u : State} (hu : Effect s i u) : Inv u := by
  cases hu with
  | began m => exact Inv.clearFrame (s := s.setModule m) h
  | emitted => exact Inv.clearFrame (s := s.emit s.frame) h
  | rejected => exact Inv.clearFrame (s := s.raise .frej) h
  | pushed b hr => exact h.pushByte b hr
  | refusedPush b hr => exact h.poison hr
  | wroteHdrLen v hv => exact h.setHdrLen hv
  | _ => exact h

theorem Inv.of_exec {i : Instr} {t : State} (he : exec i s = .next t) : Inv t := by
  obtain ⟨u, r, hu, -, rfl⟩ := exec_next_inv he
  have hInv : Inv u := h.of_effect hu
  exact hInv

theorem Inv.of_step {t : State} (hs : step s = .next t) : Inv t := by
  obtain ⟨-, rfl⟩ | ⟨es, -, rfl⟩ | ⟨tr, es, off, i, -, -, -, he⟩ | ⟨tr, es, off, r, -, -, -, rfl⟩ := step_next_inv hs
  · exact h
  · exact Inv.resetSignal (s := { s with pending := es }) h
  · exact Inv.of_exec (s := { s with pending := es }) h he
  · exact h

end

/-- Settles O56: taking an event off the list changes no field of the invariant, and the reset signal, every operation and a bus error
keep it. -/
theorem stepKeepsInvariant : Obligations.StepKeepsInvariant := fun _ _ h hs => h.of_step hs

end Sys2Proof.Machine
end

section
/-! SUPPORT. The state and its registers (spec/10_state.md): reset values, what a register read answers and a register write stores,
the write of CMD, the frame of the FR unit, and STATUS, which is sticky and which nothing but its own read looks at. -/

namespace Sys2Proof.Machine

/-! ### CMD (R25, R75) -/

theorem exec_command (c : Command) (s : State) : exec c.instr s = performCommand c s := by
  cases c <;> rfl

theorem exec_wrCmd (w : Word) (s : State) : exec (.wrCmd w) s = exec (decodeCommand w).instr s :=
  (exec_command _ s).symm

/-- A bus error's whole effect, with the bit and the response written out (R53). -/
theorem State.busError_eq (s : State) :
    s.busError = { s with status := s.status ||| 0b10000, response := some .busErr } := rfl

/-- Settles O6: the write is the command itself, and CMD has no R access. -/
theorem cmdWritePerformsCommand : Obligations.CmdWritePerformsCommand := by
  constructor
  · intro w s
    obtain ⟨u, r, -, -, he⟩ := exec_effect (.wrCmd w) s
    exact ⟨_, he, (exec_wrCmd w s).symm.trans he⟩
  · intro s es hp
    rw [step_of_rejected hp (windowOffset_add (by decide)) (decodeBus_read .cmd), State.busError_eq]

/-- Settles O8: a size 4 write at offset 4 decodes to `WR CMD, w`, which is the command. -/
theorem stepRunsDecodedCommand : Obligations.StepRunsDecodedCommand := by
  intro s w es hp
  calc step s = exec (.wrCmd w) { s with pending := es } :=
        step_of_ok hp (windowOffset_add (by decide)) (decodeBus_write .cmd w)
    _ = exec (decodeCommand w).instr { s with pending := es } := exec_wrCmd w _

/-! ### Register reads (R24, R34, R54) -/

/-- Every read operation with the value it answers. -/
def State.registerReads (s : State) : List (Instr × Word) :=
  [(.rdStatus, s.statusValue), (.rdExclStart, s.exclStart), (.rdExclEnd, s.exclEnd), (.rdCrcState, s.crcState),
    (.rdCrcResult, s.crcResult), (.rdCrcIndex, s.crcIndex), (.rdHdrCfg, s.hdrCfgValue), (.rdHdrBytes, s.hdrBytes),
    (.rdFrState, s.frStateValue)]

theorem exec_of_mem_registerReads {s : State} {x : Instr × Word} (h : x ∈ s.registerReads) :
    exec x.1 s = .next { s with response := some (.okRead x.2) } := by
  simp only [State.registerReads, List.mem_cons, List.not_mem_nil, or_false] at h
  rcases h with rfl | rfl | rfl | rfl | rfl | rfl | rfl | rfl | rfl <;> rfl

theorem statusValue_getLsbD (s : State) (k : Nat) : s.statusValue.getLsbD k = s.status.getLsbD k := by
  rw [State.statusValue, BitVec.getLsbD_setWidth]
  by_cases hk : k < 32
  · simp [hk]
  · rw [BitVec.getLsbD_of_ge s.status k (by omega), Bool.and_false]

theorem extractLsb'_eq_of_getLsbD {w : Word} {lo len : Nat} {x : BitVec len}
    (h : ∀ i, i < len → w.getLsbD (lo + i) = x.getLsbD i) : w.extractLsb' lo len = x :=
  BitVec.eq_of_getLsbD_eq fun i hi => by simpa [hi] using h i hi

/-- Settles O31: STATUS is read zero-extended from its five bits. -/
theorem statusReadFields : Obligations.StatusReadFields := by
  intro s
  refine ⟨s.statusValue, rfl, fun c => statusValue_getLsbD s c.code, extractLsb'_eq_of_getLsbD fun i _ => ?_⟩
  rw [statusValue_getLsbD, BitVec.getLsbD_of_ge s.status (5 + i) (by omega)]
  exact BitVec.getLsbD_zero.symm

theorem frStateValue_resetWith (cfg : Config) : (State.resetWith cfg).frStateValue = 0 := by
  simp [State.frStateValue, State.resetWith]

/-- Settles O32: each field by its bits. -/
theorem frStateReadFields : Obligations.FrStateReadFields := by
  refine ⟨fun s => ⟨s.frStateValue, rfl, ?module, ?zero, ?poison, ?count⟩, fun cfg => ⟨_, rfl, ?_⟩⟩
  case module =>
    refine extractLsb'_eq_of_getLsbD fun i hi => ?_
    rw [frStateValue_getLsbD, if_neg (by omega), if_neg (by omega), if_neg (by omega), Nat.add_sub_cancel_left]
  case zero =>
    refine extractLsb'_eq_of_getLsbD fun i hi => ?_
    rw [frStateValue_getLsbD, if_neg (by omega), if_neg (by omega), if_pos (by omega)]
    exact BitVec.getLsbD_zero.symm
  case poison => exact frStateValue_getLsbD s 16
  case count =>
    refine extractLsb'_eq_of_getLsbD fun i hi => ?_
    rw [frStateValue_getLsbD, Nat.zero_add, if_pos hi]
  · rw [State.respond_response, frStateValue_resetWith]

/-! ### Reset values (R39) -/

/-- Settles O13: each field of the reset state is R39's. -/
theorem resetValues : Obligations.ResetValues :=
  fun _ => ⟨rfl, rfl, rfl, rfl, rfl, rfl, rfl, rfl, rfl, rfl, rfl, rfl⟩

theorem registerReads_resetWith (cfg : Config) : (State.resetWith cfg).registerReads =
    [(.rdStatus, 0x00000000), (.rdExclStart, 0x00000000), (.rdExclEnd, 0x00000004), (.rdCrcState, 0xFFFFFFFF),
      (.rdCrcResult, 0x00000000), (.rdCrcIndex, 0x00000000), (.rdHdrCfg, 0x00000002), (.rdHdrBytes, 0x56450000),
      (.rdFrState, 0x00000000)] := by
  rw [State.registerReads, frStateValue_resetWith]
  simp [State.statusValue, State.crcResult, State.hdrCfgValue, State.resetWith]

/-- Settles O15: what the reads answer, at the reset state. -/
theorem registerReadsAfterReset : Obligations.RegisterReadsAfterReset := by
  intro cfg x hx
  exact exec_of_mem_registerReads ((registerReads_resetWith cfg).symm ▸ hx)

/-! ### Register writes (R26, R27, R32, R33) -/

/-- Settles O33: both writes store their value as it is. -/
theorem windowWritesStoreAnyValue : Obligations.WindowWritesStoreAnyValue := fun _ _ => ⟨rfl, rfl⟩

theorem exec_wrHdrCfg_of_legal {v : Word} (s : State) (h : legalHdrCfg v = true) :
    exec (.wrHdrCfg v) s = .next { s with hdrLen := v.extractLsb' 0 3, response := some .okWrite } :=
  if_pos h

theorem exec_wrHdrCfg_of_illegal {v : Word} (s : State) (h : ¬ legalHdrCfg v = true) :
    exec (.wrHdrCfg v) s = .next { s with status := s.status ||| 0b01000, response := some .okWrite } :=
  if_neg h

theorem legalHdrCfg_iff_le (v : Word) : legalHdrCfg v = true ↔ v.toNat ≤ 4 := by
  have hv := v.isLt
  rw [legalHdrCfg_iff, ← BitVec.toNat_inj, BitVec.le_def, BitVec.extractLsb'_toNat, BitVec.extractLsb'_toNat,
    Nat.shiftRight_eq_div_pow, Nat.shiftRight_zero]
  simp only [BitVec.ofNat_eq_ofNat, BitVec.toNat_ofNat]
  omega

/-- Settles O34: the write branches on the legality of its value. -/
theorem hdrCfgWriteChecksValue : Obligations.HdrCfgWriteChecksValue := by
  refine ⟨fun v s h => exec_wrHdrCfg_of_legal s ((legalHdrCfg_iff v).mpr h),
    fun v s h => exec_wrHdrCfg_of_illegal s (mt (legalHdrCfg_iff v).mp h),
    fun v => (legalHdrCfg_iff v).symm.trans (legalHdrCfg_iff_le v),
    fun s => ⟨_, exec_wrHdrCfg_of_legal s (by decide), ?_⟩⟩
  exact List.take_zero

/-! ### The header of an emitted frame (R33) -/

theorem exec_frEmit_of_unpoisoned {s : State} (h : s.frOvf = false) :
    exec .frEmit s = .next ((s.emit s.frame).clearFrame.respond .okWrite) := by
  simp [exec, execFrEmit, h]

theorem frame_startsWith_header (s : State) : s.header <+: s.frame := by
  simp [State.frame, buildFrame, framed]

theorem header_resetWith (cfg : Config) : (State.resetWith cfg).header = [0x56, 0x45] := by
  have h : (headerBytes 0x56450000).take (2#3).toNat = [0x56, 0x45] := by decide
  exact h

/-- Settles O35: the registers' equations, and an emitted frame is built on the header. -/
theorem hdrBytesHoldHeader : Obligations.HdrBytesHoldHeader := by
  refine ⟨fun _ _ => rfl, fun _ => rfl, fun _ => rfl, fun s => ?_, fun cfg => ⟨rfl, header_resetWith cfg⟩⟩
  cases h : s.frOvf
  · refine ⟨_, exec_frEmit_of_unpoisoned h, fun _ => ?_⟩
    simpa using frame_startsWith_header s
  · obtain ⟨u, r, -, -, he⟩ := exec_effect .frEmit s
    exact ⟨_, he, nofun⟩

/-! ### The frame of the FR unit (R31, R33, R35 to R37) -/

section
variable {i : Instr} {s u : State} (h : Effect s i u)
include h

theorem Effect.hdrLen_eq (hi : ∀ v, i ≠ .wrHdrCfg v) : u.hdrLen = s.hdrLen := by
  cases h with
  | wroteHdrLen v => exact absurd rfl (hi v)
  | _ => rfl

theorem Effect.hdrBytes_eq (hi : ∀ v, i ≠ .wrHdrBytes v) : u.hdrBytes = s.hdrBytes := by
  cases h with
  | wroteHdrBytes v => exact absurd rfl (hi v)
  | _ => rfl

theorem Effect.frModule_eq (hi : ∀ m, i ≠ .frBegin m) : u.frModule = s.frModule := by
  cases h with
  | began m => exact absurd rfl (hi m)
  | _ => rfl

theorem Effect.payload_eq (hbegin : ∀ m, i ≠ .frBegin m) (hpush : ∀ b, i ≠ .frPush b) (hemit : i ≠ .frEmit) :
    u.pbuf = s.pbuf ∧ u.pcount = s.pcount ∧ u.frOvf = s.frOvf := by
  cases h with
  | began m => exact absurd rfl (hbegin m)
  | pushed b | refusedPush b => exact absurd rfl (hpush b)
  | emitted | rejected => exact absurd rfl hemit
  | _ => exact ⟨rfl, rfl, rfl⟩

end

theorem command_instr_ne_wrHdrCfg (c : Command) (v : Word) : c.instr ≠ .wrHdrCfg v := by cases c <;> nofun

theorem command_instr_ne_wrHdrBytes (c : Command) (v : Word) : c.instr ≠ .wrHdrBytes v := by cases c <;> nofun

/-- Settles O47: no effect but its own writes a field of the unit, and no command is a write of HDR_CFG or HDR_BYTES. -/
theorem frUnitWrittenOnlyByItsOwn : Obligations.FrUnitWrittenOnlyByItsOwn := by
  intro i s t he
  obtain ⟨u, r, hu, -, rfl⟩ := exec_next_inv he
  refine ⟨fun hi => hu.hdrLen_eq fun v hv => hi v ?_, fun hi => hu.hdrBytes_eq fun v hv => hi v ?_,
    fun hm => hu.frModule_eq hm, fun hbegin hpush hemit => hu.payload_eq hbegin hpush hemit⟩
  · exact eq_of_performed hv fun c => command_instr_ne_wrHdrCfg c v
  · exact eq_of_performed hv fun c => command_instr_ne_wrHdrBytes c v

/-! ### STATUS is sticky (R24, R177) -/

theorem State.raise_keeps_bits {s : State} (c : Cause) {k : Nat} (hk : s.status.getLsbD k = true) :
    (s.raise c).status.getLsbD k = true := by
  rw [State.raise_status, BitVec.getLsbD_or, hk, Bool.true_or]

theorem Effect.status_sticky {i : Instr} {s u : State} (h : Effect s i u) (hi : i ≠ .clrErr) {k : Nat}
    (hk : s.status.getLsbD k = true) : u.status.getLsbD k = true := by
  cases h with
  | cleared => exact absurd rfl hi
  | illegal | refusedPush | rejected | refusedHdrLen => exact State.raise_keeps_bits _ hk
  | _ => exact hk

theorem eq_of_decodeCommand_clrErr {w : Word} (h : decodeCommand w = .clrErr) : w = 0x20000000 := by
  rw [decodeCommand_eq] at h
  split_ifs at h
  assumption

theorem eq_clrErr_of_command_instr {c : Command} (h : c.instr = .clrErr) : c = .clrErr := by
  cases c with
  | clrErr => rfl
  | _ => cases h

/-- What an admitted access is: a size 4 read or write of the register at its offset (R52, R53). -/
theorem decodeBus_ok_inv {a : Access} {off size : Nat} {i : Instr} (h : decodeBus a off size = .ok i) :
    size = 4 ∧ ∃ r : Reg, r.offset = off ∧
      ((a = .read ∧ readOp r = .ok i) ∨ ∃ v, a = .write v ∧ writeOp v r = .ok i) := by
  unfold decodeBus at h
  split_ifs at h with hsize halign
  split at h
  · cases h
  · next r hr =>
    refine ⟨not_not.mp hsize, r, registerAt_some hr, ?_⟩
    cases a with
    | read => exact .inl ⟨rfl, h⟩
    | write v => exact .inr ⟨v, rfl, h⟩

theorem readOp_performed_ne_clrErr {r : Reg} {i : Instr} (h : readOp r = .ok i) : performed i ≠ .clrErr := by
  cases r <;> cases h <;> nofun

theorem writeOp_performs_clrErr {r : Reg} {v : Word} {i : Instr} (h : writeOp v r = .ok i)
    (hi : performed i = .clrErr) : r = .cmd ∧ v = 0x20000000 := by
  cases r with
  | cmd =>
    cases h
    exact ⟨rfl, eq_of_decodeCommand_clrErr (eq_clrErr_of_command_instr hi)⟩
  | _ => cases h <;> cases hi

theorem windowOffset_some {cfg : Config} {addr off : Nat} (h : windowOffset cfg addr = some off) :
    addr = cfg.pBase + off := by
  unfold windowOffset at h
  split_ifs at h with hmem
  cases h
  omega

/-- The one transaction that performs CLR_ERR is the 32-bit write of its word to CMD. -/
theorem transaction_performs_clrErr {cfg : Config} {tr : Transaction} {off : Nat} {i : Instr}
    (ho : windowOffset cfg tr.addr = some off) (hd : decodeBus tr.access off tr.size = .ok i)
    (hi : performed i = .clrErr) : tr = ⟨.write 0x20000000, cfg.pBase + 0x04, 4⟩ := by
  have haddr := windowOffset_some ho
  obtain ⟨hsize, r, rfl, ⟨-, hr⟩ | ⟨v, ha, hw⟩⟩ := decodeBus_ok_inv hd
  · exact absurd hi (readOp_performed_ne_clrErr hr)
  · obtain ⟨rfl, rfl⟩ := writeOp_performs_clrErr hw hi
    exact congr (congrArg₂ Transaction.mk ha haddr) hsize

/-- Settles O51: of the ways a step goes on only the reset signal and an operation that performs CLR_ERR clear a bit. -/
theorem statusBitsAreSticky : Obligations.StatusBitsAreSticky := by
  intro s t e es hp hs hreset hclr k hk
  obtain ⟨hp', -⟩ | ⟨es', hp', -⟩ | ⟨tr, es', off, i, hp', ho, hd, he⟩ | ⟨tr, es', off, r, -, -, -, rfl⟩ :=
    step_next_inv hs
  · exact absurd (hp.symm.trans hp') (List.cons_ne_nil e es)
  · exact absurd (List.cons.inj (hp.symm.trans hp')).1 hreset
  · obtain ⟨rfl, rfl⟩ := List.cons.inj (hp.symm.trans hp')
    obtain ⟨u, r, hu, -, rfl⟩ := exec_next_inv he
    have hi : performed i ≠ .clrErr := fun hi => hclr (congrArg _ (transaction_performs_clrErr ho hd hi))
    exact hu.status_sticky hi hk
  · exact State.raise_keeps_bits _ hk

/-! ### No effect depends on STATUS (R40, R173) -/

/-- Two outcomes go on, in states that differ at most in STATUS. -/
def DifferOnlyInStatus (o o' : Host.Outcome State Fault Refusal) : Prop :=
  ∃ t u, o = .next t ∧ o' = .next u ∧ { u with status := t.status } = t

section
variable (s : State) (x : BitVec 5)

theorem execFrPush_anyStatus (b : Byte) : DifferOnlyInStatus (execFrPush b s) (execFrPush b { s with status := x }) := by
  have hsame : State.pushRefused { s with status := x } = s.pushRefused := rfl
  unfold execFrPush
  rw [hsame]
  cases s.pushRefused <;> exact ⟨_, _, rfl, rfl, rfl⟩

theorem execFrEmit_anyStatus : DifferOnlyInStatus (execFrEmit s) (execFrEmit { s with status := x }) := by
  unfold execFrEmit
  dsimp only
  cases s.frOvf <;> exact ⟨_, _, rfl, rfl, rfl⟩

theorem execWrHdrCfg_anyStatus (v : Word) :
    DifferOnlyInStatus (execWrHdrCfg v s) (execWrHdrCfg v { s with status := x }) := by
  unfold execWrHdrCfg
  cases legalHdrCfg v <;> exact ⟨_, _, rfl, rfl, rfl⟩

theorem performCommand_anyStatus (c : Command) :
    DifferOnlyInStatus (performCommand c s) (performCommand c { s with status := x }) := by
  cases c with
  | frPush b => exact execFrPush_anyStatus s x b
  | frEmit => exact execFrEmit_anyStatus s x
  | _ => exact ⟨_, _, rfl, rfl, rfl⟩

theorem exec_anyStatus {i : Instr} (hi : i ≠ .rdStatus) :
    DifferOnlyInStatus (exec i s) (exec i { s with status := x }) := by
  cases i with
  | rdStatus => exact absurd rfl hi
  | frPush b => exact execFrPush_anyStatus s x b
  | frEmit => exact execFrEmit_anyStatus s x
  | wrHdrCfg v => exact execWrHdrCfg_anyStatus s x v
  | wrCmd w => exact performCommand_anyStatus s x (decodeCommand w)
  | _ => exact ⟨_, _, rfl, rfl, rfl⟩

end

/-- Settles O52: but for the read of STATUS, whose answer alone differs, the outcomes differ only in STATUS. -/
theorem noEffectDependsOnStatus : Obligations.NoEffectDependsOnStatus := by
  intro i s x
  by_cases hi : i = .rdStatus
  · subst hi
    exact ⟨_, _, rfl, rfl, rfl, fun h => absurd rfl h⟩
  · obtain ⟨t, u, ht, hu, hsame⟩ := exec_anyStatus s x hi
    have hresponse : u.response = t.response := by rw [← hsame]
    exact ⟨t, u, ht, hu, by rw [← hresponse]; exact hsame, fun _ => hresponse⟩

end Sys2Proof.Machine
end

section
/-! SUPPORT. The host bus and the output port (spec/20_memory.md): the order of issued operations, bus errors, register reads and
writes repeated, and OUT, which only grows. -/

namespace Sys2Proof.Machine

/-! ### Transactions inside and outside the window (R51) -/

/-- Settles O7: an address in the window has an offset, and the access there is admitted. -/
theorem stepRunsDecodedOperation : Obligations.StepRunsDecodedOperation :=
  fun _ _ _ _ hp hlo hhi hd => step_of_ok hp (windowOffset_of_mem hlo hhi) hd

/-- Settles O11: an address outside the window has no offset. -/
theorem outsideWindowRefused : Obligations.OutsideWindowRefused :=
  fun _ _ _ hp hout => step_of_outside hp (windowOffset_eq_none_iff.mpr (by omega))

/-! ### Issued operations (R10, R60, R70) -/

theorem decode_encode {i : Instr} (h : i.wellFormed = true) : decode (encode i) = .ok i := by
  cases i with
  | ckFeed b => exact Laws.RoundTrip.ckFeed b h
  | ckFeedPass b => exact Laws.RoundTrip.ckFeedPass b h
  | frBegin m => exact Laws.RoundTrip.frBegin m h
  | frPush b => exact Laws.RoundTrip.frPush b h
  | illegal w => exact Laws.RoundTrip.illegal w h
  | _ => rfl

theorem reg_offset_le (r : Reg) : r.offset ≤ 0x3F := by
  cases r <;> decide

/-- A step on the transaction that carries an encoded operation is that operation, in either format. -/
theorem step_of_encoded {s : State} {e : Encoded} {es : List HostEvent} {i : Instr}
    (hp : s.pending = .transaction (e.transaction s.cfg) :: es) (hd : decode e = .ok i) :
    step s = exec i { s with pending := es } := by
  cases e with
  | command w =>
    cases hd
    exact stepRunsDecodedCommand s w es hp
  | bus a off size =>
    obtain ⟨-, r, rfl, -⟩ := decodeBus_ok_inv hd
    exact step_of_ok hp (windowOffset_add (reg_offset_le r)) hd

/-- A step on an issued operation goes on as the operation does, and leaves what is still to come. -/
theorem step_of_issued {s : State} {i : Instr} {es : List HostEvent} (hi : i.wellFormed = true)
    (hp : s.pending = issue s.cfg i :: es) :
    ∃ t, step s = .next t ∧ exec i { s with pending := es } = .next t ∧ t.pending = es ∧ t.cfg = s.cfg := by
  obtain ⟨u, r, hu, -, he⟩ := exec_effect i { s with pending := es }
  obtain ⟨hpending, hcfg⟩ := hu.pending_cfg
  exact ⟨_, (step_of_encoded hp (decode_encode hi)).trans he, he, hpending, hcfg⟩

/-- Settles O18, by induction on the operations: a step performs the first, whose effect does not depend on what is still to come. -/
theorem operationsRunInIssueOrder : Obligations.OperationsRunInIssueOrder := by
  intro is
  induction is with
  | nil =>
    intro s es _ hp
    obtain rfl : s.pending = es := hp
    rfl
  | cons i is ih =>
    intro s es hwf hp
    obtain ⟨hi, his⟩ := List.forall_mem_cons.mp hwf
    have hp' : s.pending = issue s.cfg i :: (is.map (issue s.cfg) ++ es) := hp
    obtain ⟨t, hstep, hexec, hpending, hcfg⟩ := step_of_issued hi hp'
    rw [List.length_cons, run_succ_of_next hstep, execAll_cons_of_next is (exec_withPending es hexec)]
    exact ih t es his (by rw [hpending, hcfg])

/-! ### Bus errors (R53) -/

/-- R53's list: the accesses at an offset of the window that are bus errors. -/
abbrev BusErrorListed (a : Access) (off size : Nat) : Prop :=
  size ≠ 4 ∨ off % 4 ≠ 0 ∨ off ∈ [0x28, 0x2C, 0x30, 0x34, 0x38, 0x3C] ∨
    ((∃ v, a = .write v) ∧ off ∈ [0x00, 0x10, 0x14, 0x18, 0x24]) ∨ (a = .read ∧ off = 0x04)

/-- The aligned offsets of the window that are not reserved are those of the registers (R23, R38). -/
theorem exists_reg_offset {off : Nat} (hoff : off ≤ 0x3F) (halign : off % 4 = 0)
    (hres : off ∉ [0x28, 0x2C, 0x30, 0x34, 0x38, 0x3C]) : ∃ r : Reg, r.offset = off := by
  have hsome : ∀ n < 64, n % 4 = 0 → n ∉ [0x28, 0x2C, 0x30, 0x34, 0x38, 0x3C] → (registerAt n).isSome = true := by
    decide
  obtain ⟨r, hr⟩ := Option.isSome_iff_exists.mp (hsome off (by omega) halign hres)
  exact ⟨r, registerAt_some hr⟩

theorem reg_offset_not_reserved (r : Reg) : r.offset ∉ [0x28, 0x2C, 0x30, 0x34, 0x38, 0x3C] := by
  cases r <;> decide

theorem readOp_ok_iff (r : Reg) : (∃ i, readOp r = .ok i) ↔ r.offset ≠ 0x04 := by
  cases r <;> simp [readOp, Reg.offset]

theorem writeOp_ok_iff (v : Word) (r : Reg) : (∃ i, writeOp v r = .ok i) ↔ r.offset ∉ [0x00, 0x10, 0x14, 0x18, 0x24] := by
  cases r <;> simp [writeOp, Reg.offset]

theorem decodeBus_rejected_of_listed {a : Access} {off size : Nat} (h : BusErrorListed a off size) :
    ∃ e, decodeBus a off size = .rejected e := by
  cases hd : decodeBus a off size with
  | rejected e => exact ⟨e, rfl⟩
  | ok i =>
    obtain ⟨hsize, r, rfl, hr⟩ := decodeBus_ok_inv hd
    rcases h with h | h | h | ⟨⟨v, rfl⟩, h⟩ | ⟨rfl, h⟩
    · exact absurd hsize h
    · exact absurd (reg_offset_aligned r) h
    · exact absurd h (reg_offset_not_reserved r)
    · obtain ⟨hread, -⟩ | ⟨_, -, hw⟩ := hr
      · cases hread
      · exact absurd h ((writeOp_ok_iff _ r).mp ⟨i, hw⟩)
    · obtain ⟨-, hr⟩ | ⟨_, hwrite, -⟩ := hr
      · exact absurd h ((readOp_ok_iff r).mp ⟨i, hr⟩)
      · cases hwrite

theorem exec_readOp {r : Reg} {i : Instr} (h : readOp r = .ok i) (s : State) :
    ∃ v, exec i s = .next { s with response := some (.okRead v) } := by
  cases r <;> cases h <;> exact ⟨_, rfl⟩

theorem exec_writeOp {v : Word} {r : Reg} {i : Instr} (h : writeOp v r = .ok i) (s : State) :
    ∃ u, exec i s = .next u ∧ u.response = some .okWrite := by
  cases r with
  | cmd =>
    cases h
    obtain ⟨u, -, he⟩ := performCommand_effect (decodeCommand v) s
    exact ⟨_, he, rfl⟩
  | hdrCfg =>
    cases h
    obtain ⟨u, -, he⟩ := execWrHdrCfg_effect v s
    exact ⟨_, he, rfl⟩
  | _ => cases h <;> exact ⟨_, rfl, rfl⟩

/-- Settles O10: the bus decoder rejects what R53 lists; anything else is a read or a write of a register that has it. -/
theorem busErrorsAreExactly : Obligations.BusErrorsAreExactly := by
  intro s t es off hp haddr hoff
  have ho : windowOffset s.cfg t.addr = some off := by rw [haddr, windowOffset_add hoff]
  refine ⟨fun (h : BusErrorListed t.access off t.size) => ?_, fun h => ?_⟩
  · obtain ⟨e, hd⟩ := decodeBus_rejected_of_listed h
    rw [step_of_rejected hp ho hd, State.busError_eq]
  · simp only [not_or, not_and, not_not] at h
    obtain ⟨hsize, halign, hres, hwrite, hread⟩ := h
    obtain ⟨r, rfl⟩ := exists_reg_offset hoff halign hres
    refine ⟨fun ha => ?_, fun v ha => ?_⟩
    · obtain ⟨i, hi⟩ := (readOp_ok_iff r).mpr (hread ha)
      have hd : decodeBus t.access r.offset t.size = .ok i := by rw [ha, hsize, decodeBus_read, hi]
      rw [step_of_ok hp ho hd]
      exact exec_readOp hi _
    · obtain ⟨i, hi⟩ := (writeOp_ok_iff v r).mpr (hwrite ⟨v, ha⟩)
      have hd : decodeBus t.access r.offset t.size = .ok i := by rw [ha, hsize, decodeBus_write, hi]
      rw [step_of_ok hp ho hd]
      exact exec_writeOp hi _

/-! ### Register operations repeated (R54, R55) -/

theorem execAll_singleton {i : Instr} {s t : State} (h : exec i s = .next t) : execAll [i] s = .next t := by
  rw [execAll_cons_of_next [] h, execAll_nil]

theorem execAll_twice {i : Instr} {s t u : State} (h : exec i s = .next t) (h' : exec i t = .next u) :
    execAll [i, i] s = .next u := by
  rw [execAll_cons_of_next [i] h, execAll_singleton h']

/-- Settles O30: a read changes only the response, on which no read's value depends. -/
theorem registerReadValues : Obligations.RegisterReadValues := by
  intro s x hx
  have once : exec x.1 s = .next { s with response := some (.okRead x.2) } := exec_of_mem_registerReads hx
  have again : exec x.1 { s with response := some (.okRead x.2) } = .next { s with response := some (.okRead x.2) } :=
    exec_of_mem_registerReads (s := { s with response := some (.okRead x.2) }) hx
  exact ⟨once, execAll_twice once again⟩

/-- A refused HDR_CFG write repeated raises a bit that is set already. -/
theorem exec_wrHdrCfg_idempotent (v : Word) (s : State) :
    ∃ t, exec (.wrHdrCfg v) s = .next t ∧ exec (.wrHdrCfg v) t = .next t := by
  by_cases hv : legalHdrCfg v = true
  · exact ⟨_, exec_wrHdrCfg_of_legal s hv, exec_wrHdrCfg_of_legal _ hv⟩
  · refine ⟨_, exec_wrHdrCfg_of_illegal s hv, ?_⟩
    rw [exec_wrHdrCfg_of_illegal _ hv, BitVec.or_assoc, BitVec.or_self]

theorem exec_registerWrite_idempotent {v : Word} (s : State) {i : Instr}
    (hi : i ∈ ([.wrExclStart v, .wrExclEnd v, .wrHdrCfg v, .wrHdrBytes v] : List Instr)) :
    ∃ t, exec i s = .next t ∧ exec i t = .next t := by
  simp only [List.mem_cons, List.not_mem_nil, or_false] at hi
  rcases hi with rfl | rfl | rfl | rfl
  · exact ⟨_, rfl, rfl⟩
  · exact ⟨_, rfl, rfl⟩
  · exact exec_wrHdrCfg_idempotent v s
  · exact ⟨_, rfl, rfl⟩

/-- Settles O36: a CMD write is its command, and `CK_FEED_PASS 0x56` twice emits two bytes where once emits one. -/
theorem registerWritesAreIdempotent : Obligations.RegisterWritesAreIdempotent := by
  refine ⟨fun v s i hi => ?_, fun w s => ?_, 0x03000056, State.reset, fun h => ?_⟩
  · obtain ⟨t, once, again⟩ := exec_registerWrite_idempotent s hi
    exact ⟨t, execAll_singleton once, execAll_twice once again⟩
  · obtain ⟨u, r, -, -, once⟩ := exec_effect (.wrCmd w) s
    obtain ⟨_, _, -, -, again⟩ := exec_effect (.wrCmd w) (u.respond r)
    exact ⟨_, _, (exec_wrCmd w _).symm.trans once, (exec_wrCmd w _).symm.trans again, execAll_singleton once,
      execAll_twice once again⟩
  · have hout : ([0x56, 0x56] : List Byte) = [0x56] := congrArg State.out (Host.Outcome.next.inj h)
    exact absurd hout (by decide)

/-! ### The output port (R50, R57) -/

section
variable {i : Instr} {s u : State} (h : Effect s i u)
include h

theorem Effect.out_prefix : s.out <+: u.out := by
  cases h with
  | passed | appended | emitted => exact List.prefix_append _ _
  | _ => exact List.prefix_rfl

theorem Effect.out_eq (hpass : ∀ b, i ≠ .ckFeedPass b) (happend : i ≠ .ckAppend) (hemit : i ≠ .frEmit) :
    u.out = s.out := by
  cases h with
  | passed b => exact absurd rfl (hpass b)
  | appended => exact absurd rfl happend
  | emitted => exact absurd rfl hemit
  | _ => rfl

end

/-- Settles O54: an operation's effect only appends to OUT; waiting, the reset signal and a bus error leave it. -/
theorem outputOnlyGrows : Obligations.OutputOnlyGrows := by
  constructor
  · intro s t hs
    obtain ⟨-, rfl⟩ | ⟨es, -, rfl⟩ | ⟨tr, es, off, i, -, -, -, he⟩ | ⟨tr, es, off, r, -, -, -, rfl⟩ := step_next_inv hs
    · exact List.prefix_rfl
    · exact List.prefix_rfl
    · obtain ⟨u, r, hu, -, rfl⟩ := exec_next_inv he
      exact hu.out_prefix
    · exact List.prefix_rfl
  · intro i s t he hpass happend hemit
    obtain ⟨u, r, hu, -, rfl⟩ := exec_next_inv he
    exact hu.out_eq hpass happend hemit

end Sys2Proof.Machine
end

section
/-! SUPPORT. The encodings (spec/30_encoding.md): the opcode map, whose rows exclude each other, the words of the commands, what the
assembler refuses, and the step on an issued operation. -/

namespace Sys2Proof.Machine

/-! ### Operations in both formats (R71, R74) -/

/-- Settles O1: the round trip of every operation, by its format. -/
theorem decodeInvertsEncode : Obligations.DecodeInvertsEncode := fun _ => decode_encode

/-- Settles O5: command words by the opcode map, accesses by the register at their offset. -/
theorem specWordsDecode : Obligations.SpecWordsDecode :=
  ⟨by decide, by decide, by decide, by decide, decodeBus_read .frState, decodeBus_write .hdrBytes _, decodeBus_write .cmd _⟩

/-! ### The opcode map and the words of the commands (R74, R75) -/

/-- A word that selects a row with a free IMM8 is the row's word with its own operand. -/
theorem or_commandOperand {w x : Word} (h : w &&& 0xFFFFFF00#32 = x) : x ||| (commandOperand w).setWidth 32 = w := by
  subst h
  rw [and_mask_high]
  refine BitVec.eq_of_getLsbD_eq fun i hi => ?_
  by_cases h8 : i < 8
  · simp [commandOperand, h8, hi]
  · have hback : 8 + (i - 8) = i := by omega
    have hhigh : (commandOperand w).getLsbD i = false := BitVec.getLsbD_of_ge _ i (not_lt.mp h8)
    simp [h8, hi, hback, hhigh]

/-- Settles O2: the word's row fixes every bit that its operand does not keep. -/
theorem commandWordInvertsDecode : Obligations.CommandWordInvertsDecode := by
  intro w
  rw [decodeCommand_eq]
  split_ifs with hnop hstart hfeed hpass happend hbegin hpush hemit hclr
  · exact hnop.symm
  · exact hstart.symm
  · exact or_commandOperand hfeed
  · exact or_commandOperand hpass
  · exact happend.symm
  · exact or_commandOperand hbegin
  · exact or_commandOperand hpush
  · exact hemit.symm
  · exact hclr.symm
  · rfl

/-- No word selects both rows. -/
def DisjointRows (r₁ r₂ : OpcodeRow) : Prop :=
  ∀ w : Word, ¬ (w &&& r₁.mask = r₁.word ∧ w &&& r₂.mask = r₂.word)

theorem disjointRows_symm : Std.Symm DisjointRows := ⟨fun _ _ h w hw => h w hw.symm⟩

/-- On the bits both masks keep, a word that selects both rows agrees with both. -/
theorem disjointRows_of_word_ne {r₁ r₂ : OpcodeRow} (h : r₁.word &&& r₂.mask ≠ r₂.word &&& r₁.mask) :
    DisjointRows r₁ r₂ := by
  rintro w ⟨h₁, h₂⟩
  exact h (by rw [← h₁, ← h₂, BitVec.and_assoc, BitVec.and_assoc, BitVec.and_comm r₁.mask])

theorem opcodeMap_pairwise_disjointRows : opcodeMap.Pairwise DisjointRows := by
  have hwords : opcodeMap.Pairwise fun r₁ r₂ => r₁.word &&& r₂.mask ≠ r₂.word &&& r₁.mask := by decide
  exact hwords.imp disjointRows_of_word_ne

theorem selected_row_unique {r r' : OpcodeRow} {w : Word} (hr : r ∈ opcodeMap) (hr' : r' ∈ opcodeMap)
    (hw : w &&& r.mask = r.word) (hw' : w &&& r'.mask = r'.word) : r = r' := by
  have := disjointRows_symm
  by_contra hne
  exact opcodeMap_pairwise_disjointRows.forall hr hr' hne w ⟨hw, hw'⟩

/-- A row that a word selects is the one the decoder finds, wherever it stands in the map. -/
theorem decodeCommand_of_mem {r : OpcodeRow} {w : Word} (hr : r ∈ opcodeMap) (hw : w &&& r.mask = r.word) :
    decodeCommand w = r.command (commandOperand w) := by
  unfold decodeCommand
  split
  · next r' hfound =>
    have hw' : w &&& r'.mask = r'.word := by simpa using List.find?_some hfound
    rw [selected_row_unique (List.mem_of_find?_eq_some hfound) hr hw' hw]
  · next hnone => exact absurd hw (by simpa using List.find?_eq_none.mp hnone r hr)

/-- Settles O3: the rows exclude each other, so each decides for the words that match it. -/
theorem opcodeMapSelectsCommand : Obligations.OpcodeMapSelectsCommand := by
  refine ⟨fun w => ?_, opcodeMap_pairwise_disjointRows⟩
  have rows : ∀ r ∈ opcodeMap, w &&& r.mask = r.word → decodeCommand w = r.command (commandOperand w) :=
    fun _ hr => decodeCommand_of_mem hr
  simpa only [opcodeMap, List.forall_mem_cons, List.not_mem_nil, false_implies, implies_true, and_true, commandOperand]
    using rows

/-! ### The assembler (R78) -/

theorem reg_offset_injective : Function.Injective Reg.offset := by
  intro r r' h
  have hsome : some r = some r' := by rw [← registerAt_offset r, h, registerAt_offset]
  exact Option.some.inj hsome

theorem ofDecoded_refused_iff (d : Decoded) : (∃ e, Assembled.ofDecoded d = .refused e) ↔ ¬ ∃ i, d = .ok i := by
  cases d <;> simp [Assembled.ofDecoded]

theorem assembleOp_rd_refused_iff (r : Reg) : (∃ e, assembleOp (.rd r) = .refused e) ↔ r = .cmd := by
  rw [assembleOp, ofDecoded_refused_iff, readOp_ok_iff, not_not]
  exact reg_offset_injective.eq_iff (b := .cmd)

theorem assembleOp_wr_refused_iff (r : Reg) (v : Nat) : (∃ e, assembleOp (.wr r v) = .refused e) ↔
    0xFFFFFFFF < v ∨ r ∈ [.status, .crcState, .crcResult, .crcIndex, .frState] := by
  by_cases hv : v ≤ 0xFFFFFFFF
  · rw [assembleOp, if_pos hv, ofDecoded_refused_iff, writeOp_ok_iff, not_not, or_iff_right hv.not_gt]
    exact List.mem_map_of_injective reg_offset_injective (l := [.status, .crcState, .crcResult, .crcIndex, .frState])
  · rw [assembleOp, if_neg hv]
    exact iff_of_true ⟨_, rfl⟩ (.inl (not_le.mp hv))

theorem assembleImm8_refused_iff (c : Byte → Instr) (n : Nat) : (∃ e, assembleImm8 c n = .refused e) ↔ 255 < n := by
  by_cases hn : n ≤ 255
  · simp [assembleImm8, hn]
  · simp [assembleImm8, hn, not_le.mp hn]

/-- The op of an operand command assembles to the word `match | imm8`. -/
theorem assembleImm8_word {c : Byte → Instr} {x : Word} {n : Nat} (hn : n ≤ 255)
    (hc : ∀ b, encode (c b) = .command (x ||| b.setWidth 32)) :
    ∃ i, assembleImm8 c n = .ok i ∧ encode i = .command (x ||| BitVec.ofNat 32 n) := by
  refine ⟨_, if_pos hn, ?_⟩
  rw [hc, BitVec.setWidth_ofNat_of_le_of_lt (by decide) (by omega)]

/-- Settles O58: a register access by the accesses the register has, an operand command by its one bound; no other op is refused. -/
theorem assemblerRefusesExactly : Obligations.AssemblerRefusesExactly := by
  constructor
  · intro op
    cases op with
    | rd r => exact assembleOp_rd_refused_iff r
    | wr r v => exact assembleOp_wr_refused_iff r v
    | ckFeed n | ckFeedPass n | frBegin n | frPush n => exact assembleImm8_refused_iff _ n
    | nop | ckStart | ckAppend | frEmit | clrErr => exact iff_of_false nofun id
  · intro n hn
    exact ⟨assembleImm8_word hn fun _ => rfl, assembleImm8_word hn fun _ => rfl, assembleImm8_word hn fun _ => rfl,
      assembleImm8_word hn fun _ => rfl⟩

/-! ### The step (R70) -/

/-- Settles O9: the issued transaction carries the operation's encoding, which decodes to it. -/
theorem stepRunsIssuedOperation : Obligations.StepRunsIssuedOperation :=
  fun _ _ _ hi hp => step_of_encoded hp (decode_encode hi)

/-- Settles O12: the step performs the first pending event, and there is none. -/
theorem idleStepChangesNothing : Obligations.IdleStepChangesNothing := by
  intro s hp
  rw [step, performNext, hp]

end Sys2Proof.Machine
end

section
/-! SUPPORT. The checksum (spec/40_checksum.md): the checksum function and its exclusion window, what a sequence of fed bytes
leaves, with the saturating index, the expansions and the CK commands, the frame of the CK unit, and the step, which nothing stops. -/

namespace Sys2Proof.Machine

/-! ### The byte update (R101) -/

/-- Settles O19: `crcByte` is the bit step written out eight times. -/
theorem crcByteIsBitSerial : Obligations.CrcByteIsBitSerial :=
  ⟨fun _ _ => rfl, by decide, by decide, by decide, by decide⟩

/-! ### The checksum function (R102 to R104) -/

/-- The CRC loop as a fold over the bytes with their indices. -/
theorem crcFrom_eq_foldl (c : Word) (i s e : Nat) (d : List Byte) : crcFrom c i s e d =
    (d.zipIdx i).foldl (fun c x => if s ≤ x.2 ∧ x.2 < e then c else crcByte c x.1) c := by
  induction d generalizing c i with
  | nil => rfl
  | cons b d ih => rw [crcFrom, ih]; simp only [excluded_iff, List.zipIdx_cons, List.foldl_cons]

theorem checksum_of_all_excluded {d : List Byte} {s e : Nat} (h : ∀ i, i < d.length → s ≤ i ∧ i < e) :
    checksum d s e = 0 := by
  have hall : crcFrom 0xFFFFFFFF 0 s e d = 0xFFFFFFFF :=
    crcFrom_of_all_excluded _ 0 s e d fun k hk => excluded_iff.mpr (by have := h k hk; omega)
  rw [checksum, hall]
  rfl

theorem checksum_nil (s e : Nat) : checksum [] s e = 0 := checksum_of_all_excluded nofun

/-- Settles O21: the fold by induction; with no byte accumulated the running CRC keeps its initial value. -/
theorem checksumFollowsDefinition : Obligations.ChecksumFollowsDefinition :=
  ⟨fun d s e => congrArg (~~~ ·) (crcFrom_eq_foldl _ 0 s e d), checksum_nil, fun _ _ _ => checksum_of_all_excluded⟩

theorem checksum_of_none_excluded {d : List Byte} {s e : Nat} (h : ∀ i, i < d.length → i < s ∨ e ≤ i) :
    checksum d s e = checksum d 0 0 := by
  refine congrArg (~~~ ·) (crcFrom_of_none_excluded _ 0 s e 0 d fun k hk => ?_)
  rw [Nat.zero_add]
  exact (h k hk).elim excluded_eq_false_of_lt_start excluded_eq_false_of_end_le

/-- A window inside the input cuts it in three: bytes accumulated, bytes skipped, bytes accumulated. -/
theorem checksum_eq_checksum_take_drop {s e : Nat} (h : s ≤ e) (d : List Byte) :
    checksum d s e = checksum (d.take s ++ d.drop e) 0 0 := by
  have hsplit : d = d.take s ++ ((d.drop s).take (e - s) ++ d.drop e) := by
    have hdrop : d.drop e = (d.drop s).drop (e - s) := by rw [List.drop_drop, Nat.add_sub_cancel' h]
    rw [hdrop, List.take_append_drop, List.take_append_drop]
  have hbefore (c : Word) : crcFrom c 0 s e (d.take s) = crcFrom c 0 0 0 (d.take s) :=
    crcFrom_of_none_excluded _ _ _ _ _ _ fun k hk =>
      excluded_eq_false_of_lt_start (by rw [List.length_take] at hk; omega)
  have hinside (c : Word) : crcFrom c (0 + (d.take s).length) s e ((d.drop s).take (e - s)) = c :=
    crcFrom_of_all_excluded _ _ _ _ _ fun k hk =>
      excluded_iff.mpr (by simp only [List.length_take, List.length_drop] at hk ⊢; omega)
  have hafter (c : Word) (i : Nat) :
      crcFrom c (0 + (d.take s).length + ((d.drop s).take (e - s)).length) s e (d.drop e) = crcFrom c i 0 0 (d.drop e) :=
    crcFrom_of_none_excluded _ _ _ _ _ _ fun k hk =>
      excluded_eq_false_of_end_le (by simp only [List.length_take, List.length_drop] at hk ⊢; omega)
  have hcrc (c : Word) : crcFrom c 0 s e d = crcFrom c 0 0 0 (d.take s ++ d.drop e) := by
    conv_lhs => rw [hsplit]
    rw [crcFrom_append, crcFrom_append, crcFrom_append, hinside, hbefore]
    exact hafter _ _
  exact congrArg (~~~ ·) (hcrc _)

/-- The CRC loop over the bytes that are not excluded: where they stand no longer matters. -/
theorem crcFrom_eq_crcFrom_kept (c : Word) (i j s e : Nat) (d : List Byte) :
    crcFrom c i s e d = crcFrom c j 0 0 (((d.zipIdx i).filter fun x => ! excluded x.2 s e).map Prod.fst) := by
  induction d generalizing c i j with
  | nil => rfl
  | cons b d ih =>
    rw [crcFrom, List.zipIdx_cons, List.filter_cons]
    cases h : excluded i s e
    · have hnone : excluded j 0 0 = false := excluded_eq_false_of_end_le (Nat.zero_le j)
      simpa [crcFrom, hnone] using ih (crcByte c b) (i + 1) (j + 1)
    · simpa using ih c (i + 1) j

/-- Settles O22: the kept bytes by induction; a window cuts the input in three. -/
theorem checksumOfKeptBytes : Obligations.ChecksumOfKeptBytes :=
  ⟨fun d s e => congrArg (~~~ ·) (crcFrom_eq_crcFrom_kept _ 0 0 s e d), fun d _ _ h => checksum_eq_checksum_take_drop h d,
    by decide, by decide⟩

/-- Settles O20: no index is in an empty window or one past the end; a window over the end leaves the bytes before it. -/
theorem exclusionWindowCorners : Obligations.ExclusionWindowCorners := by
  have hempty (d : List Byte) (s e : Nat) (h : e ≤ s) : checksum d s e = checksum d 0 0 :=
    checksum_of_none_excluded fun i _ => by omega
  refine ⟨fun _ _ _ => excluded_iff, hempty, fun d s e hlen => ?_, fun d s e hlen => ?_⟩
  · rcases Nat.le_total s e with hse | hes
    · rw [checksum_eq_checksum_take_drop hse, List.drop_of_length_le hlen.le, List.append_nil]
    · rw [hempty d s e hes, List.take_of_length_le (by omega)]
  · exact checksum_of_none_excluded fun i hi => by omega

/-! ### CRC_INDEX saturates (R106, R111) -/

/-- The value CRC_INDEX counts n bytes by: n itself, or its bound. -/
def saturatedIndex (n : Nat) : Word := BitVec.ofNat 32 (min n 0xFFFFFFFF)

theorem saturatedIndex_toNat (n : Nat) : (saturatedIndex n).toNat = min n 0xFFFFFFFF :=
  Nat.mod_eq_of_lt (by omega)

theorem nextIndex_saturatedIndex (n : Nat) : nextIndex (saturatedIndex n) = saturatedIndex (n + 1) := by
  apply BitVec.eq_of_toNat_eq
  rw [nextIndex_toNat, saturatedIndex_toNat, saturatedIndex_toNat]
  omega

/-- Saturation never shows in the window: its end is at most the bound, so no index from the bound on is in it. -/
theorem excluded_saturatedIndex (n s : Nat) (e : Word) : excluded (saturatedIndex n).toNat s e.toNat = excluded n s e.toNat := by
  have he := e.isLt
  rw [Bool.eq_iff_iff, excluded_iff, excluded_iff, saturatedIndex_toNat]
  omega

/-! ### Feeding a sequence of bytes (R103, R105 to R107) -/

/-- The bytes of d fed one after another. -/
def State.feedAll (d : List Byte) (s : State) : State := d.foldl (fun t b => t.feed b) s

/-- Fed bytes run the source's loop, from the index counted so far, which is unbounded. -/
theorem State.feedAll_eq (d : List Byte) {s : State} {n : Nat} (hn : s.crcIndex = saturatedIndex n) :
    s.feedAll d = { s with
      crcState := crcFrom s.crcState n s.exclStart.toNat s.exclEnd.toNat d
      crcIndex := saturatedIndex (n + d.length) } := by
  induction d generalizing s n with
  | nil => rw [List.length_nil, Nat.add_zero, ← hn]; rfl
  | cons b d ih =>
    have hindex : (s.feed b).crcIndex = saturatedIndex (n + 1) := by
      rw [State.feed_crcIndex, hn, nextIndex_saturatedIndex]
    have hcrc : (s.feed b).crcState = if excluded n s.exclStart.toNat s.exclEnd.toNat then s.crcState
        else crcByte s.crcState b := by
      rw [State.feed_crcState, hn, excluded_saturatedIndex]
    rw [State.feedAll, List.foldl_cons, ← State.feedAll, ih hindex, hcrc, List.length_cons, Nat.add_right_comm, Nat.add_assoc]
    rfl

/-- A checksum of exactly d is in progress, over the window as it is. -/
def State.checksummed (d : List Byte) (s : State) : State :=
  { s with
    crcState := ~~~ checksum d s.exclStart.toNat s.exclEnd.toNat
    crcIndex := saturatedIndex d.length }

theorem State.startChecksum_feedAll (d : List Byte) (s : State) : s.startChecksum.feedAll d = s.checksummed d := by
  have hstart : s.startChecksum.crcIndex = saturatedIndex 0 := rfl
  rw [State.feedAll_eq d hstart, State.checksummed, checksum, BitVec.not_not, Nat.zero_add]
  rfl

theorem exec_ckFeed (b : Byte) (s : State) : exec (.ckFeed b) s = .next ((s.feed b).respond .okWrite) := rfl

theorem State.emit_emit (d d' : List Byte) (s : State) : (s.emit d).emit d' = s.emit (d ++ d') := by
  simp only [State.emit, List.append_assoc]

theorem State.feed_emit (b : Byte) (d : List Byte) (s : State) : (s.feed b).emit d = (s.emit d).feed b := rfl

theorem execAll_feeds (d : List Byte) (s : State) :
    execAll (d.map .ckFeed) (s.respond .okWrite) = .next ((s.feedAll d).respond .okWrite) := by
  induction d generalizing s with
  | nil => rfl
  | cons b d ih => exact ih (s.feed b)

theorem execAll_passes (d : List Byte) (s : State) :
    execAll (d.map .ckFeedPass) (s.respond .okWrite) = .next (((s.emit d).feedAll d).respond .okWrite) := by
  induction d generalizing s with
  | nil => rw [State.emit, List.append_nil]; rfl
  | cons b d ih =>
    have hrest := ih ((s.emit [b]).feed b)
    rw [State.feed_emit, State.emit_emit] at hrest
    exact hrest

theorem execAll_start_feeds (d : List Byte) (s : State) :
    execAll (.ckStart :: d.map .ckFeed) s = .next ((s.checksummed d).respond .okWrite) := by
  rw [← State.startChecksum_feedAll]
  exact execAll_feeds d s.startChecksum

theorem execAll_start_passes (d : List Byte) (s : State) :
    execAll (.ckStart :: d.map .ckFeedPass) s = .next (((s.emit d).checksummed d).respond .okWrite) := by
  rw [← State.startChecksum_feedAll]
  exact execAll_passes d s.startChecksum

/-- Settles O27, by induction on the bytes fed, the index of the loop unbounded. -/
theorem feedingComputesChecksum : Obligations.FeedingComputesChecksum := execAll_start_feeds

/-! ### The expansions CHECKSUM and APPEND_CHECKSUM (R79, R110) -/

/-- The exclusion window is set (R26, R27). -/
def State.window (a e : Word) (s : State) : State := { s with exclStart := a, exclEnd := e }

theorem execAll_setWindow (a e : Word) (s : State) :
    execAll (setWindow a e) s = .next ((s.window a e).respond .okWrite) := rfl

theorem execAll_window_feeds (a e : Word) (d : List Byte) (s : State) :
    execAll (setWindow a e ++ .ckStart :: d.map .ckFeed) s = .next (((s.window a e).checksummed d).respond .okWrite) := by
  rw [execAll_append_of_next _ (execAll_setWindow a e s), execAll_start_feeds]
  rfl

theorem execAll_window_passes (a e : Word) (d : List Byte) (s : State) :
    execAll (setWindow a e ++ .ckStart :: d.map .ckFeedPass) s =
      .next ((((s.window a e).emit d).checksummed d).respond .okWrite) := by
  rw [execAll_append_of_next _ (execAll_setWindow a e s), execAll_start_passes]
  rfl

/-- CRC_RESULT of a checksum in progress is the source's checksum (R29). -/
theorem State.checksummed_crcResult (d : List Byte) (s : State) :
    (s.checksummed d).crcResult = checksum d s.exclStart.toNat s.exclEnd.toNat := BitVec.not_not

/-- A read of CRC_RESULT answers the checksum of the bytes fed since CK_START. -/
theorem execAll_append_rdCrcResult {is : List Instr} {s t : State} {d : List Byte}
    (h : execAll is s = .next ((t.checksummed d).respond .okWrite)) :
    ∃ u, execAll (is ++ [.rdCrcResult]) s = .next u ∧
      u.response = some (.okRead (checksum d t.exclStart.toNat t.exclEnd.toNat)) ∧ u.out = t.out := by
  rw [execAll_append_of_next _ h, ← t.checksummed_crcResult d]
  exact ⟨_, rfl, rfl, rfl⟩

/-- CK_APPEND emits the checksum of the bytes fed since CK_START. -/
theorem execAll_append_ckAppend {is : List Instr} {s t : State} {d : List Byte}
    (h : execAll is s = .next ((t.checksummed d).respond .okWrite)) :
    ∃ u, execAll (is ++ [.ckAppend]) s = .next u ∧
      u.out = t.out ++ be32 (checksum d t.exclStart.toNat t.exclEnd.toNat) := by
  rw [execAll_append_of_next _ h, ← t.checksummed_crcResult d]
  exact ⟨_, rfl, rfl⟩

/-- Settles O28: each expansion ends with the checksum of d in progress, read or appended. -/
theorem checksumExpansionsEqualSource : Obligations.ChecksumExpansionsEqualSource := by
  refine ⟨fun d s e st _ => ?_, fun d s e st _ => ?_, fun d cfg _ => ?_⟩
  · exact execAll_append_rdCrcResult (execAll_window_feeds s e d st)
  · obtain ⟨u, hu, hout⟩ := execAll_append_ckAppend (execAll_window_passes s e d st)
    exact ⟨u, hu, hout.trans (List.append_assoc _ _ _), List.length_append⟩
  · exact execAll_append_ckAppend (execAll_start_passes d (State.resetWith cfg))

/-! ### The CK commands (R105 to R108) -/

theorem eq_commandWord {w : Word} {c : Command} (h : decodeCommand w = c) : w = commandWord c := by
  rw [← h, commandWordInvertsDecode]

/-- Settles O23: the word is the command's only one, and a checksum begun reads as that of no byte. -/
theorem ckStartBeginsChecksum : Obligations.CkStartBeginsChecksum := by
  refine ⟨fun w => ⟨eq_commandWord, ?_⟩, fun s => ⟨rfl, rfl, ?_, ⟨_, rfl, rfl⟩⟩⟩
  · rintro rfl
    decide
  · obtain ⟨t, ht, hread, -⟩ := execAll_append_rdCrcResult (execAll_start_feeds [] s)
    exact ⟨t, ht, by rw [hread, checksum_nil]⟩

theorem command_instr_injective : Function.Injective Command.instr := by
  intro c c' h
  cases c <;> cases c' <;> cases h <;> rfl

theorem decodeCommand_commandWord {c : Command} (h : c.instr.wellFormed = true) : decodeCommand (commandWord c) = c := by
  have hencode : encode c.instr = .command (commandWord c) := by cases c <;> rfl
  have hdecode : decode (.command (commandWord c)) = .ok c.instr := hencode ▸ decode_encode h
  exact command_instr_injective (Decoded.ok.inj hdecode)

theorem State.feed_eq (b : Byte) (s : State) : s.feed b =
    { s with
      crcState := if s.exclStart ≤ s.crcIndex ∧ s.crcIndex < s.exclEnd then s.crcState else crcByte s.crcState b
      crcIndex := if s.crcIndex ≠ 0xFFFFFFFF then s.crcIndex + 1 else s.crcIndex } := by
  simp only [State.feed, nextIndex, excluded_iff, BitVec.le_def, BitVec.lt_def, ite_not]

/-- No window reaches the saturated index. -/
theorem State.feed_of_saturated (b : Byte) {s : State} (h : s.crcIndex = 0xFFFFFFFF) :
    s.feed b = { s with crcState := crcByte s.crcState b } := by
  have hout : ¬ (s.exclStart ≤ s.crcIndex ∧ s.crcIndex < s.exclEnd) := by
    rw [h]; bv_omega
  rw [State.feed_eq, if_neg hout, if_neg (not_not.mpr h)]

/-- The checksum of one byte, its value evaluated. -/
theorem execAll_start_feed {b : Byte} {s : State} {c : Word}
    (hc : ~~~ checksum [b] s.exclStart.toNat s.exclEnd.toNat = c) : execAll [.ckStart, .ckFeed b] s =
      .next { s with crcState := c, crcIndex := 1, response := some .okWrite } := by
  subst hc
  exact execAll_start_feeds [b] s

/-- Settles O24: one byte by the window's test; the examples are checksums of one byte. -/
theorem ckFeedAccumulatesOutsideWindow : Obligations.CkFeedAccumulatesOutsideWindow := by
  refine ⟨fun b => decodeCommand_commandWord (c := .ckFeed b) rfl, fun b s => ?_, fun b s h => ?_,
    fun s hs he => ⟨?_, ?_⟩, fun s hs he => ?_⟩
  · rw [exec_ckFeed, State.feed_eq]
    rfl
  · rw [exec_ckFeed, State.feed_of_saturated b h]
    rfl
  · exact execAll_start_feed (by rw [hs, he]; decide)
  · obtain ⟨t, ht, hread, -⟩ := execAll_append_rdCrcResult (execAll_start_feeds [0x31] s)
    have hvalue : checksum [0x31] s.exclStart.toNat s.exclEnd.toNat = 0x83DCEFB7 := by rw [hs, he]; decide
    exact ⟨t, ht, by rw [hread, hvalue]⟩
  · exact execAll_start_feed (by rw [hs, he]; decide)

/-- Settles O25: feeding does not look at OUT; the example is a checksum of one byte, passed. -/
theorem ckFeedPassEmitsThenFeeds : Obligations.CkFeedPassEmitsThenFeeds := by
  refine ⟨fun b => decodeCommand_commandWord (c := .ckFeedPass b) rfl, fun b s => ⟨_, exec_ckFeed b s, rfl⟩,
    fun s hs he => ?_⟩
  have hvalue : ~~~ checksum [0x56] s.exclStart.toNat s.exclEnd.toNat = 0xFFFFFFFF := by rw [hs, he]; decide
  rw [← hvalue]
  exact execAll_start_passes [0x56] s

/-- Settles O26: what is emitted is the checksum of the bytes fed, of none and of the nine of the example. -/
theorem ckAppendEmitsChecksum : Obligations.CkAppendEmitsChecksum := by
  refine ⟨fun w => ⟨eq_commandWord, ?_⟩, fun _ => rfl, fun s => ?_, fun s => ?_⟩
  · rintro rfl
    decide
  · obtain ⟨t, ht, hout⟩ := execAll_append_ckAppend (execAll_start_feeds [] s)
    exact ⟨t, ht, by rw [hout, checksum_nil]; rfl⟩
  · obtain ⟨t, ht, hout⟩ := execAll_append_ckAppend
      (execAll_window_feeds 0 0 [0x31, 0x32, 0x33, 0x34, 0x35, 0x36, 0x37, 0x38, 0x39] s)
    have hvalue : be32 (checksum [0x31, 0x32, 0x33, 0x34, 0x35, 0x36, 0x37, 0x38, 0x39] 0 0) =
        [0xCB, 0xF4, 0x39, 0x26] := by decide +kernel
    exact ⟨t, ht, hout.trans (congrArg (s.out ++ ·) hvalue)⟩

/-! ### The frame of the CK unit (R109) -/

section
variable {i : Instr} {s u : State} (h : Effect s i u)
include h

theorem Effect.crc_eq (hstart : i ≠ .ckStart) (hfeed : ∀ b, i ≠ .ckFeed b ∧ i ≠ .ckFeedPass b) :
    u.crcState = s.crcState ∧ u.crcIndex = s.crcIndex := by
  cases h with
  | started => exact absurd rfl hstart
  | fed b => exact absurd rfl (hfeed b).1
  | passed b => exact absurd rfl (hfeed b).2
  | _ => exact ⟨rfl, rfl⟩

theorem Effect.exclStart_eq (hi : ∀ v, i ≠ .wrExclStart v) : u.exclStart = s.exclStart := by
  cases h with
  | wroteStart v => exact absurd rfl (hi v)
  | _ => rfl

theorem Effect.exclEnd_eq (hi : ∀ v, i ≠ .wrExclEnd v) : u.exclEnd = s.exclEnd := by
  cases h with
  | wroteEnd v => exact absurd rfl (hi v)
  | _ => rfl

end

theorem command_instr_ne_wrExclStart (c : Command) (v : Word) : c.instr ≠ .wrExclStart v := by cases c <;> nofun

theorem command_instr_ne_wrExclEnd (c : Command) (v : Word) : c.instr ≠ .wrExclEnd v := by cases c <;> nofun

/-- Settles O29: no effect but its own writes a register of the unit, and no command is a write of the window. -/
theorem ckUnitWrittenOnlyByItsOwn : Obligations.CkUnitWrittenOnlyByItsOwn := by
  intro i s t he
  obtain ⟨u, r, hu, -, rfl⟩ := exec_next_inv he
  refine ⟨hu.crc_eq, fun hi => hu.exclStart_eq fun v hv => hi v ?_, fun hi => hu.exclEnd_eq fun v hv => hi v ?_⟩
  · exact eq_of_performed hv fun c => command_instr_ne_wrExclStart c v
  · exact eq_of_performed hv fun c => command_instr_ne_wrExclEnd c v

/-! ### Nothing CKFE serves stops it (R112, R170) -/

theorem exec_goes_on (i : Instr) (s : State) : ∃ t, exec i s = .next t ∧ t.pending = s.pending := by
  obtain ⟨u, r, hu, -, he⟩ := exec_effect i s
  exact ⟨_, he, hu.pending_cfg.1⟩

/-- Settles O16: an access in the window is an operation, which goes on, or a bus error. -/
theorem servedEventsComplete : Obligations.ServedEventsComplete := by
  intro s e es hp hserved
  cases e with
  | reset => exact ⟨_, step_reset hp, rfl⟩
  | transaction tr =>
    obtain ⟨hlo, hhi⟩ := hserved
    have hoff := windowOffset_of_mem hlo hhi
    cases hd : decodeBus tr.access (tr.addr - s.cfg.pBase) tr.size with
    | ok i => rw [step_of_ok hp hoff hd]; exact exec_goes_on i { s with pending := es }
    | rejected r => exact ⟨_, step_of_rejected hp hoff hd, rfl⟩

end Sys2Proof.Machine
end

section
/-! SUPPORT. The frame (spec/41_frame.md): its layout, and a checksum that does not depend on the header; the FR commands over the
state of a frame under construction; the expansions SET_HEADER and BUILD_FRAME; and the CK unit, which the FR commands leave alone. -/

namespace Sys2Proof.Machine

/-! ### The layout of a frame (R130 to R133) -/

theorem buildFrame_eq (hdr : List Byte) (m : Byte) (p : List Byte) : buildFrame hdr m p =
    hdr ++ (be16 p.length ++ m :: (p ++ be32 (checksum (framed hdr m p) 0 hdr.length))) := by
  simp [buildFrame, framed]

theorem buildFrame_take_framed (hdr : List Byte) (m : Byte) (p : List Byte) :
    (buildFrame hdr m p).take (hdr.length + 3 + p.length) = framed hdr m p :=
  List.take_left' (framed_length hdr m p)

/-- The bytes after the payload are the checksum. -/
theorem buildFrame_drop_framed (hdr : List Byte) (m : Byte) (p : List Byte) :
    (buildFrame hdr m p).drop (hdr.length + 3 + p.length) = be32 (checksum (framed hdr m p) 0 hdr.length) :=
  List.drop_left' (framed_length hdr m p)

/-- LENGTH stands right after the header, the module id after LENGTH. -/
theorem buildFrame_drop_header (hdr : List Byte) (m : Byte) (p : List Byte) : (buildFrame hdr m p).drop hdr.length =
    be16 p.length ++ m :: (p ++ be32 (checksum (framed hdr m p) 0 hdr.length)) := by
  rw [buildFrame_eq, List.drop_left]

theorem buildFrame_moduleId (hdr : List Byte) (m : Byte) (p : List Byte) :
    (buildFrame hdr m p)[hdr.length + 2]? = some m := by
  rw [← List.getElem?_drop, buildFrame_drop_header]
  rfl

theorem buildFrame_payload (hdr : List Byte) (m : Byte) (p : List Byte) :
    ((buildFrame hdr m p).drop (hdr.length + 3)).take p.length = p := by
  rw [← List.drop_drop, buildFrame_drop_header]
  exact List.take_left

/-- Settles O37: each field where the bytes before it end. -/
theorem frameLayout : Obligations.FrameLayout := by
  intro hdr m p hp
  obtain ⟨hi, lo, hbe, hvalue⟩ := be16_exact p.length hp
  have hlength := buildFrame_drop_header hdr m p
  rw [hbe] at hlength
  refine ⟨buildFrame_length hdr m p, ?header, ⟨hi, lo, ?high, ?low, hvalue⟩, buildFrame_moduleId hdr m p,
    buildFrame_payload hdr m p, ?checksum⟩
  case header => rw [buildFrame_eq, List.take_left]
  case high => rw [← List.head?_drop, hlength]; rfl
  case low => rw [← List.getElem?_drop, hlength]; rfl
  case checksum => rw [buildFrame_take_framed, buildFrame_drop_framed]

/-! ### The checksum skips the header (R142) -/

/-- The window [0, h) covers exactly the header, so what is accumulated is the rest, whatever the header. -/
theorem checksum_framed (hdr : List Byte) (m : Byte) (p : List Byte) :
    checksum (framed hdr m p) 0 hdr.length = checksum (be16 p.length ++ [m] ++ p) 0 0 := by
  rw [checksum_eq_checksum_take_drop (Nat.zero_le _), List.take_zero, List.nil_append, framed_drop_header]

theorem buildFrame_checksum (hdr : List Byte) (m : Byte) (p : List Byte) :
    (buildFrame hdr m p).drop (hdr.length + 3 + p.length) = be32 (checksum (be16 p.length ++ [m] ++ p) 0 0) := by
  rw [buildFrame_drop_framed, checksum_framed]

/-- Settles O38: the plain checksum of the bytes after the header, in which the header does not occur. -/
theorem frameChecksumIgnoresHeader : Obligations.FrameChecksumIgnoresHeader := by
  refine ⟨buildFrame_checksum, fun hdr₁ hdr₂ m p => ?_, fun hdr => ?_⟩
  · rw [buildFrame_checksum, buildFrame_checksum]
  · have hvalue : be32 (checksum (be16 1 ++ [0x04] ++ [0x63]) 0 0) = [0x90, 0x51, 0x40, 0xCD] := by decide +kernel
    exact (buildFrame_checksum hdr 0x04 [0x63]).trans hvalue

/-! ### FR_BEGIN, FR_PUSH and FR_EMIT (R134 to R136) -/

theorem exec_frPush_of_refused (b : Byte) {s : State} (h : s.frOvf = true ∨ s.pcount.toNat = s.cfg.pPayloadCap) :
    exec (.frPush b) s = .next ((s.poison.raise .lovf).respond .okWrite) :=
  if_pos ((pushRefused_iff s).mpr h)

theorem exec_frPush_of_accepted (b : Byte) {s : State} (h : ¬ (s.frOvf = true ∨ s.pcount.toNat = s.cfg.pPayloadCap)) :
    exec (.frPush b) s = .next ((s.pushByte b).respond .okWrite) :=
  if_neg (mt (pushRefused_iff s).mp h)

theorem exec_frEmit_of_poisoned {s : State} (h : s.frOvf = true) :
    exec .frEmit s = .next ((s.raise .frej).clearFrame.respond .okWrite) :=
  if_pos h

/-- A frame is under construction, unpoisoned: module m and payload p, counted. -/
def State.underConstruction (m : Byte) (p : List Byte) (s : State) : State :=
  { s with frModule := m, pbuf := p, pcount := BitVec.ofNat 16 p.length, frOvf := false }

theorem exec_frBegin (m : Byte) (s : State) :
    exec (.frBegin m) s = .next ((s.underConstruction m []).respond .okWrite) := rfl

theorem State.underConstruction_pushByte (m b : Byte) (p : List Byte) (s : State) :
    (s.underConstruction m p).pushByte b = s.underConstruction m (p ++ [b]) := by
  simp [State.underConstruction, State.pushByte, BitVec.ofNat_add]

/-- With room in a buffer whose size the count can hold, a push is accepted. -/
theorem exec_frPush_underConstruction {m : Byte} {p : List Byte} {s : State} (b : Byte)
    (hcap : s.cfg.pPayloadCap ≤ 65535) (hroom : p.length < s.cfg.pPayloadCap) :
    exec (.frPush b) (s.underConstruction m p) = .next ((s.underConstruction m (p ++ [b])).respond .okWrite) := by
  have hcount : (BitVec.ofNat 16 p.length).toNat = p.length := Nat.mod_eq_of_lt (by omega)
  rw [← State.underConstruction_pushByte]
  refine exec_frPush_of_accepted b ?_
  rintro (hovf | hfull)
  · cases hovf
  · exact hroom.ne (hcount.symm.trans hfull)

/-- Bytes that fit are pushed one after another. -/
theorem execAll_pushes {m : Byte} {s : State} (d : List Byte) {p : List Byte} (hcap : s.cfg.pPayloadCap ≤ 65535)
    (hroom : p.length + d.length ≤ s.cfg.pPayloadCap) :
    execAll (d.map .frPush) ((s.underConstruction m p).respond .okWrite) =
      .next ((s.underConstruction m (p ++ d)).respond .okWrite) := by
  induction d generalizing p with
  | nil => rw [List.append_nil]; rfl
  | cons b d ih =>
    rw [List.length_cons] at hroom
    have hlt : p.length < s.cfg.pPayloadCap := by omega
    have hrest : (p ++ [b]).length + d.length ≤ s.cfg.pPayloadCap := by
      rw [List.length_append, List.length_singleton]; omega
    rw [List.append_cons]
    have hpush := exec_frPush_underConstruction (m := m) (s := s.respond .okWrite) b hcap hlt
    exact (execAll_cons_of_next (d.map .frPush) hpush).trans (ih hrest)

/-- A begun frame to which bytes that fit are pushed, from any state. -/
theorem execAll_begin_pushes (m : Byte) {p : List Byte} {s : State} (hcap : s.cfg.pPayloadCap ≤ 65535)
    (hp : p.length ≤ s.cfg.pPayloadCap) :
    execAll (.frBegin m :: p.map .frPush) s = .next ((s.underConstruction m p).respond .okWrite) :=
  execAll_pushes p hcap (by simpa using hp)

/-- FR_STATE of a frame under construction: module, no poison, count (R34). -/
theorem execAll_append_rdFrState {is : List Instr} {s t : State} {m : Byte} {p : List Byte} {v : Word}
    (h : execAll is s = .next ((t.underConstruction m p).respond .okWrite))
    (hv : m ++ 0#7 ++ BitVec.ofBool false ++ BitVec.ofNat 16 p.length = v) :
    execAll (is ++ [.rdFrState]) s = .next ((t.underConstruction m p).respond (.okRead v)) := by
  rw [execAll_append_of_next _ h, ← hv]
  rfl

/-- The frame is sent, and one of the same module with an empty payload is under construction (R136). -/
theorem exec_frEmit_underConstruction (m : Byte) (p : List Byte) (s : State) :
    exec .frEmit (s.underConstruction m p) =
      .next (((s.emit (buildFrame s.header m p)).underConstruction m []).respond .okWrite) := rfl

theorem execAll_buildFrameOps (m : Byte) {p : List Byte} {s : State} (hcap : s.cfg.pPayloadCap ≤ 65535)
    (hp : p.length ≤ s.cfg.pPayloadCap) :
    execAll (buildFrameOps m p) s =
      .next (((s.emit (buildFrame s.header m p)).underConstruction m []).respond .okWrite) := by
  rw [buildFrameOps, execAll_append_of_next _ (execAll_begin_pushes m hcap hp)]
  rfl

/-- Settles O39: the frame state begun, and read back. -/
theorem frBeginStartsFrame : Obligations.FrBeginStartsFrame :=
  ⟨fun m => decodeCommand_commandWord (c := .frBegin m) rfl, exec_frBegin,
    fun s => ⟨_, execAll_append_rdFrState (execAll_singleton (exec_frBegin 0x01 s)) (by decide), rfl⟩⟩

/-- Settles O40: the push branches on the refusal; the example is a payload of one byte, which fits. -/
theorem frPushAppendsOrRefuses : Obligations.FrPushAppendsOrRefuses := by
  refine ⟨fun b => decodeCommand_commandWord (c := .frPush b) rfl, fun b s h => exec_frPush_of_refused b h,
    fun b s h => exec_frPush_of_accepted b h, fun s ⟨_, hpos, hcap⟩ => ?_⟩
  exact ⟨_, execAll_append_rdFrState (execAll_begin_pushes 0x04 (p := [99]) hcap hpos) (by decide), rfl, rfl⟩

/-- Settles O41: FR_EMIT branches on the poison, and leaves an empty unpoisoned frame; the example is BUILD_FRAME of three bytes. -/
theorem frEmitEmitsOrRejects : Obligations.FrEmitEmitsOrRejects := by
  refine ⟨fun w => ⟨eq_commandWord, ?_⟩, fun s h => exec_frEmit_of_poisoned h, fun s h => exec_frEmit_of_unpoisoned h,
    fun s h => ?_, fun s ⟨_, _, hcap⟩ hroom hlen hbytes => ?_⟩
  · rintro rfl
    decide
  · rw [execAll_cons_of_next _ (exec_frEmit_of_unpoisoned h)]
    exact ⟨_, rfl, rfl⟩
  · have hheader : s.header = [0x56, 0x45] := by rw [State.header, hlen, hbytes]; decide
    have hvalue : buildFrame [0x56, 0x45] 0x01 [1, 12, 1] =
        [0x56, 0x45, 0x00, 0x03, 0x01, 0x01, 0x0C, 0x01, 0x94, 0xAE, 0xA9, 0xBB] := by decide +kernel
    refine ⟨_, execAll_buildFrameOps 0x01 (p := [1, 12, 1]) hcap hroom, ?_⟩
    rw [hheader, hvalue]
    rfl

/-! ### An emitted frame's LENGTH (R131, R138) -/

/-- Settles O43: the payload fits the buffer, at most 65535 bytes, so LENGTH holds its exact size. -/
theorem emittedLengthIsExact : Obligations.EmittedLengthIsExact := by
  intro s ⟨hcfg, _, hcount, hcap, _⟩ hovf
  obtain ⟨_, _, hmax⟩ := hcfg
  obtain ⟨hi, lo, hbe, hvalue⟩ := be16_exact s.pbuf.length (by omega)
  obtain ⟨rest, hframe⟩ : ∃ rest, s.frame = s.header ++ hi :: lo :: rest :=
    ⟨_, by rw [State.frame, buildFrame_eq, hbe]; rfl⟩
  refine ⟨_, hi, lo, rest, exec_frEmit_of_unpoisoned hovf, ?_, hvalue, hvalue.trans hcount.symm⟩
  rw [List.append_assoc, ← hframe]
  rfl

/-! ### The header, written before FR_EMIT (R79, R143, R194) -/

/-- The header registers hold the bytes v and the length in k. -/
def State.withHeader (v k : Word) (s : State) : State := { s with hdrBytes := v, hdrLen := k.extractLsb' 0 3 }

theorem execAll_writeHeader (v : Word) {k : Word} (s : State) (hk : k.toNat ≤ 4) :
    execAll [.wrHdrBytes v, .wrHdrCfg k] s = .next ((s.withHeader v k).respond .okWrite) :=
  execAll_singleton (exec_wrHdrCfg_of_legal { s with hdrBytes := v, response := some .okWrite }
    ((legalHdrCfg_iff_le k).mpr hk))

theorem header_withHeader (v : Word) {k : Word} (s : State) (hk : k.toNat ≤ 4) :
    (s.withHeader v k).header = (headerBytes v).take k.toNat := by
  have hlen : (k.extractLsb' 0 3).toNat = k.toNat := by
    rw [BitVec.extractLsb'_toNat, Nat.shiftRight_zero, Nat.mod_eq_of_lt (by omega)]
  rw [State.header, State.withHeader, hlen]

/-- Settles O44: FR_EMIT reads the header registers, which were written after FR_BEGIN. -/
theorem headerReadAtEmit : Obligations.HeaderReadAtEmit := by
  intro s m v k hk
  have hwrite : execAll [.wrHdrBytes v, .wrHdrCfg k] ((s.underConstruction m []).respond .okWrite) =
      .next (((s.withHeader v k).respond .okWrite).underConstruction m []) := execAll_writeHeader v _ hk
  have hheader : ((s.withHeader v k).respond .okWrite).header = (headerBytes v).take k.toNat := header_withHeader v s hk
  calc execAll [.frBegin m, .wrHdrBytes v, .wrHdrCfg k, .frEmit] s
      = execAll [.frEmit] (((s.withHeader v k).respond .okWrite).underConstruction m []) :=
        execAll_append_of_next [.frEmit] ((execAll_cons_of_next _ (exec_frBegin m s)).trans hwrite)
    _ = _ := execAll_singleton (exec_frEmit_underConstruction m [] _)
    _ = _ := by rw [hheader]; rfl

/-! ### SET_HEADER and BUILD_FRAME append the source's frame (R79, R137) -/

/-- A byte shifted to one of the four byte positions of a word is that byte of it, and 0 elsewhere. -/
theorem extractLsb'_shiftLeft_byte (b : Byte) {k lo : Nat} (hk : k % 8 = 0) (hlo : lo % 8 = 0) (h : lo ≤ 24) :
    (b.setWidth 32 <<< k).extractLsb' lo 8 = if k = lo then b else 0 := by
  refine extractLsb'_eq_of_getLsbD fun i hi => ?_
  rw [BitVec.getLsbD_shiftLeft, BitVec.getLsbD_setWidth, decide_eq_true (by omega : lo + i < 32),
    decide_eq_true (by omega : lo + i - k < 32), Bool.true_and, Bool.true_and]
  rcases Nat.lt_trichotomy k lo with hlt | rfl | hgt
  · rw [if_neg hlt.ne, BitVec.getLsbD_of_ge b _ (by omega), Bool.and_false]
    exact BitVec.getLsbD_zero.symm
  · simp
  · rw [if_neg hgt.ne', decide_eq_true (by omega : lo + i < k)]
    exact BitVec.getLsbD_zero.symm

theorem extractLsb'_setWidth_byte (b : Byte) {lo : Nat} (hlo : lo % 8 = 0) (h : lo ≤ 24) :
    (b.setWidth 32).extractLsb' lo 8 = if 0 = lo then b else 0 := by
  rw [← extractLsb'_shiftLeft_byte b (Nat.zero_mod 8) hlo h, BitVec.shiftLeft_zero]

theorem headerBytes_headerWord (hs : List Byte) :
    headerBytes (headerWord hs) = [hs.getD 0 0, hs.getD 1 0, hs.getD 2 0, hs.getD 3 0] := by
  simp [headerBytes, headerWord, BitVec.extractLsb'_or, extractLsb'_shiftLeft_byte, extractLsb'_setWidth_byte]

theorem headerBytes_headerWord_take {hs : List Byte} (h : hs.length ≤ 4) :
    (headerBytes (headerWord hs)).take hs.length = hs := by
  rw [headerBytes_headerWord]
  match hs, h with
  | [], _ | [_], _ | [_, _], _ | [_, _, _], _ | [_, _, _, _], _ => rfl

/-- After SET_HEADER, from any state, the header is its operand. -/
theorem execAll_setHeader {hs : List Byte} (s : State) (h : hs.length ≤ 4) :
    ∃ t : State, execAll (setHeader hs) s = .next t ∧ t.header = hs ∧ t.out = s.out ∧ t.cfg = s.cfg := by
  have hk : (BitVec.ofNat 32 hs.length).toNat = hs.length := Nat.mod_eq_of_lt (by omega)
  refine ⟨_, execAll_writeHeader _ s (by omega), ?_, rfl, rfl⟩
  have hheader := header_withHeader (headerWord hs) (k := BitVec.ofNat 32 hs.length) s (by omega)
  rw [hk, headerBytes_headerWord_take h] at hheader
  exact hheader

/-- Settles O42, by induction on the pushes, all of which fit (`execAll_pushes`); the frame's fields are those of its layout. -/
theorem buildFrameExpansionEqualsSource : Obligations.BuildFrameExpansionEqualsSource := by
  intro hdr m p s hhdr ⟨_, _, hcap⟩ hp
  obtain ⟨t, hset, hheader, hout, hcfg⟩ := execAll_setHeader s hhdr
  obtain ⟨hi, lo, hbe, hvalue⟩ := be16_exact p.length (by omega)
  refine ⟨_, (execAll_append_of_next _ hset).trans (execAll_buildFrameOps m (by rwa [hcfg]) (by rwa [hcfg])), ?out, ?length,
    ⟨hi, lo, ?lengthField, hvalue⟩, buildFrame_moduleId hdr m p, buildFrame_drop_framed hdr m p⟩
  case out => rw [← hout, ← hheader]; rfl
  case length => rw [buildFrame_length]; omega
  case lengthField => rw [buildFrame_drop_header, hbe]; rfl

/-! ### The FR commands leave the CK unit alone (R141) -/

/-- Settles O46: what the FR commands test and read is in the frame state, so each takes the same branch whatever the CK registers. -/
theorem frUnitLeavesChecksumUnit : Obligations.FrUnitLeavesChecksumUnit := by
  rintro i (⟨m, rfl⟩ | ⟨b, rfl⟩ | rfl) s
  · exact ⟨_, exec_frBegin m s, rfl, rfl, rfl, rfl, fun _ _ _ _ => rfl⟩
  · by_cases h : s.frOvf = true ∨ s.pcount.toNat = s.cfg.pPayloadCap
    · exact ⟨_, exec_frPush_of_refused b h, rfl, rfl, rfl, rfl, fun _ _ _ _ => exec_frPush_of_refused b h⟩
    · exact ⟨_, exec_frPush_of_accepted b h, rfl, rfl, rfl, rfl, fun _ _ _ _ => exec_frPush_of_accepted b h⟩
  · rcases Bool.eq_false_or_eq_true s.frOvf with h | h
    · exact ⟨_, exec_frEmit_of_poisoned h, rfl, rfl, rfl, rfl, fun _ _ _ _ => exec_frEmit_of_poisoned h⟩
    · exact ⟨_, exec_frEmit_of_unpoisoned h, rfl, rfl, rfl, rfl, fun _ _ _ _ => exec_frEmit_of_unpoisoned h⟩

end Sys2Proof.Machine
end

section
/-! SUPPORT. The control commands (spec/42_control.md): which words are illegal, by their fields, and what NOP, CLR_ERR and ILLEGAL
leave unchanged. -/

namespace Sys2Proof.Machine

/-! ### Illegal words (R75, R76, R162) -/

/-- A word that the decoder finds no row for matches none of the rows' words. -/
theorem illegalWord_of_decodeCommand {w : Word} (h : decodeCommand w = .illegal w) : illegalWord w = true := by
  rw [decodeCommand_eq] at h
  split_ifs at h with hnop hstart hfeed hpass happend hbegin hpush hemit hclr
  rw [illegalWord_iff]
  rw [and_mask_high_eq_iff, BitVec.toNat_ofNat] at hfeed hpass hbegin hpush
  rw [← BitVec.toNat_inj, BitVec.toNat_ofNat] at hnop hstart happend hemit hclr
  omega

theorem decodeCommand_illegal_iff (w : Word) : decodeCommand w = .illegal w ↔ illegalWord w = true :=
  ⟨illegalWord_of_decodeCommand, decodeCommand_of_illegalWord⟩

theorem illegalWord_iff_fields (w : Word) : illegalWord w = true ↔
    opField w ∉ definedOps ∨ rsvField w ≠ 0 ∨ (immField w ≠ 0 ∧ opField w ∉ operandOps) := by
  simp [illegalWord, or_assoc]

theorem eq_zero_of_fields {w : Word} (hop : opField w = 0) (hrsv : rsvField w = 0) (himm : immField w = 0) : w = 0 := by
  have hop' : 0 = w.toNat / 16777216 := (congrArg BitVec.toNat hop).symm.trans (opField_toNat w)
  have hrsv' : 0 = w.toNat / 256 % 65536 := (congrArg BitVec.toNat hrsv).symm.trans (rsvField_toNat w)
  have himm' : 0 = w.toNat % 256 := (congrArg BitVec.toNat himm).symm.trans (immField_toNat w)
  have hw : w.toNat = 0 := by omega
  exact BitVec.eq_of_toNat_eq hw

/-- OP 0 takes no operand, so any other bit set is a reserved bit or an operand where none is taken. -/
theorem illegalWord_of_opField_zero {w : Word} (hop : opField w = 0) (hw : w ≠ 0) : illegalWord w = true := by
  rw [illegalWord_iff_fields]
  by_cases hrsv : rsvField w = 0
  · have himm : immField w ≠ 0 := fun himm => hw (eq_zero_of_fields hop hrsv himm)
    exact .inr (.inr ⟨himm, by rw [hop]; decide⟩)
  · exact .inr (.inl hrsv)

theorem exec_illegal (w : Word) (s : State) :
    exec (.illegal w) s = .next { s with status := s.status ||| 0b00001, response := some .okWrite } := rfl

/-- Settles O4: the decoder's illegal words are those illegal by their fields, and a CMD write of one is ILLEGAL. -/
theorem illegalWordsRaiseIllOnly : Obligations.IllegalWordsRaiseIllOnly := by
  refine ⟨fun w => (decodeCommand_illegal_iff w).trans (illegalWord_iff_fields w), exec_illegal, fun w s h => ?_, ?_⟩
  · rw [exec_wrCmd, h]
    exact exec_illegal w s
  · simp only [List.forall_mem_cons, List.not_mem_nil, false_implies, implies_true, and_true]
    exact ⟨by decide, by decide, by decide⟩

/-! ### NOP and CLR_ERR (R160, R161) -/

theorem decodeCommand_eq_iff {c : Command} (h : c.instr.wellFormed = true) (w : Word) :
    decodeCommand w = c ↔ w = commandWord c :=
  ⟨eq_commandWord, fun hw => hw ▸ decodeCommand_commandWord h⟩

theorem exec_nop (s : State) : exec .nop s = .next { s with response := some .okWrite } := rfl

/-- Settles O48: NOP's word is its only one, and the other words with OP 0 are illegal by their fields. -/
theorem nopChangesNothing : Obligations.NopChangesNothing :=
  ⟨decodeCommand_eq_iff (c := .nop) rfl,
    fun _ hop hw => decodeCommand_of_illegalWord (illegalWord_of_opField_zero hop hw), exec_nop⟩

theorem exec_clrErr (s : State) : exec .clrErr s = .next { s with status := 0, response := some .okWrite } := rfl

/-- Settles O49: CLR_ERR's word is its only one, and STATUS cleared reads as 0, the poison as it was. -/
theorem clrErrClearsStatusOnly : Obligations.ClrErrClearsStatusOnly := by
  refine ⟨decodeCommand_eq_iff (c := .clrErr) rfl, exec_clrErr, fun s _ => ?_⟩
  rw [execAll_cons_of_next _ (exec_clrErr s)]
  exact ⟨_, rfl, rfl, rfl⟩

end Sys2Proof.Machine
end

section
/-! SUPPORT. Exceptions (spec/60_exceptions.md): which operation raises which cause, the operations that raise none, and runs, which
no cause stops. -/

namespace Sys2Proof.Machine

/-! ### Runs in the window go on (R170, R173) -/

/-- The host keeps to the window: CKFE serves all that it has yet to issue. -/
def State.AllServed (s : State) : Prop := ∀ e ∈ s.pending, Served s.cfg e

/-- Taking an event off leaves events of the same window, as no step moves it. -/
theorem State.AllServed.step_goes_on {s : State} (h : s.AllServed) : ∃ t, step s = .next t ∧ t.AllServed := by
  cases hp : s.pending with
  | nil => exact ⟨s, idleStepChangesNothing s hp, h⟩
  | cons e es =>
    rw [State.AllServed, hp, List.forall_mem_cons] at h
    obtain ⟨he, hes⟩ := h
    obtain ⟨t, hstep, hpending⟩ := servedEventsComplete s e es hp he
    refine ⟨t, hstep, ?_⟩
    rw [State.AllServed, hpending, step_keeps_cfg hstep]
    exact hes

/-- Where the step goes on and keeps P, so does every run. -/
theorem run_goes_on {P : State → Prop} (hstep : ∀ s, P s → ∃ t, step s = .next t ∧ P t) (n : Nat) {s : State} (hs : P s) :
    ∃ t, Host.Core.run Sys2Proof.core n s = .next t ∧ P t := by
  induction n generalizing s with
  | zero => exact ⟨s, rfl, hs⟩
  | succ n ih =>
    obtain ⟨u, hu, hP⟩ := hstep s hs
    rw [run_succ_of_next hu]
    exact ih hP

/-- Settles O17, by induction on the steps: each serves an event, or waits, and leaves only events that are served. -/
theorem windowRunsNeverStop : Obligations.WindowRunsNeverStop := by
  intro s hs n
  obtain ⟨t, hrun, -⟩ := run_goes_on (fun _ => State.AllServed.step_goes_on) n hs
  exact ⟨t, hrun⟩

/-! ### The causes and their operations (R171, R174) -/

/-- R171: the operation that can raise a cause. A bus error is no operation's, so BUSE has none. -/
inductive Raises : Instr → Cause → Prop where
  | illegal (w : Word) : Raises (.illegal w) .ill
  | frPush (b : Byte) : Raises (.frPush b) .lovf
  | frEmit : Raises .frEmit .frej
  | wrHdrCfg (v : Word) : Raises (.wrHdrCfg v) .cfge

theorem Effect.status_cases {i : Instr} {s u : State} (h : Effect s i u) (hclr : i ≠ .clrErr) :
    u.status = s.status ∨ ∃ c, Raises i c ∧ u.status = s.status ||| c.bit := by
  cases h with
  | cleared => exact absurd rfl hclr
  | illegal w => exact .inr ⟨.ill, .illegal w, rfl⟩
  | refusedPush b => exact .inr ⟨.lovf, .frPush b, rfl⟩
  | rejected => exact .inr ⟨.frej, .frEmit, rfl⟩
  | refusedHdrLen v => exact .inr ⟨.cfge, .wrHdrCfg v, rfl⟩
  | _ => exact .inl rfl

theorem decodeBus_of_size_ne {a : Access} {off size : Nat} (h : size ≠ 4) : decodeBus a off size = .rejected .badSize :=
  if_pos h

/-- Settles O50: an effect raises only its own operation's cause, and an access of another size is rejected before its word is read. -/
theorem atMostOneCauseRaised : Obligations.AtMostOneCauseRaised := by
  constructor
  · intro i s t he hclr
    obtain ⟨u, r, hu, -, rfl⟩ := exec_next_inv he
    obtain hkept | ⟨c, hraises, hstatus⟩ := hu.status_cases hclr
    · exact .inl hkept
    · right
      generalize hj : performed i = j at hraises ⊢
      cases hraises with
      | illegal w => exact .inl ⟨⟨w, rfl⟩, hstatus⟩
      | frPush b => exact .inr (.inl ⟨⟨b, rfl⟩, hstatus⟩)
      | frEmit => exact .inr (.inr (.inl ⟨rfl, hstatus⟩))
      | wrHdrCfg v =>
        have hi : i = .wrHdrCfg v := eq_of_performed hj fun c => command_instr_ne_wrHdrCfg c v
        exact .inr (.inr (.inr ⟨⟨v, hi⟩, hstatus⟩))
  · intro s w size es hp hsize
    rw [step_of_rejected hp (windowOffset_add (by decide)) (decodeBus_of_size_ne hsize), State.busError_eq]

/-! ### The operations that raise no cause (R172) -/

theorem exec_keeps_status {i : Instr} (s : State) (hclr : performed i ≠ .clrErr) (hraise : ∀ c, ¬ Raises (performed i) c) :
    ∃ t, exec i s = .next t ∧ t.status = s.status := by
  obtain ⟨u, r, hu, -, he⟩ := exec_effect i s
  have hstatus : u.status = s.status := (hu.status_cases hclr).resolve_right fun ⟨c, hc, _⟩ => hraise c hc
  exact ⟨_, he, hstatus⟩

theorem exec_performed (i : Instr) (s : State) : exec i s = exec (performed i) s := by
  cases i with
  | wrCmd w => exact exec_wrCmd w s
  | _ => rfl

/-- Settles O53: no operation of the list is R171's operation of a cause, and CLR_ERR is the same by either route. -/
theorem operationsRaisingNoCause : Obligations.OperationsRaisingNoCause := by
  constructor
  · intro i hi s
    obtain ⟨hclr, hraise⟩ : performed i ≠ .clrErr ∧ ∀ c, ¬ Raises (performed i) c := by
      rcases hi with h | ⟨_, h⟩ | ⟨_, h⟩ | h | ⟨_, h⟩ | h | ⟨_, h⟩ | ⟨_, h⟩ | ⟨_, h⟩ <;> rw [h] <;> exact ⟨nofun, nofun⟩
    exact exec_keeps_status s hclr hraise
  · intro i s hi
    rw [exec_performed, hi]
    exact ⟨_, exec_clrErr s, rfl⟩

end Sys2Proof.Machine
end

section
/-! SUPPORT. Reset and hazards (spec/70_reset_and_hazards.md): the reset signal, and the poison of a frame, which stands until the
frame's FR_EMIT is rejected. -/

namespace Sys2Proof.Machine

/-! ### The reset signal (R190) -/

/-- Settles O14: the step's state is the reset state with OUT, the parameters and the other events kept. -/
theorem resetSignalRestoresResetValues : Obligations.ResetSignalRestoresResetValues := fun s _ hp =>
  ⟨s.response, step_reset hp⟩

/-! ### A poisoned frame sends nothing (R36, R198) -/

/-- Only FR_BEGIN and FR_EMIT lift the poison (R36). -/
theorem Effect.keeps_poison {i : Instr} {s u : State} (h : Effect s i u) (hbegin : ∀ m, i ≠ .frBegin m) (hemit : i ≠ .frEmit)
    (hs : s.frOvf = true) : u.frOvf = true := by
  cases h with
  | began m => exact absurd rfl (hbegin m)
  | emitted | rejected => exact absurd rfl hemit
  | refusedPush => rfl
  | _ => exact hs

theorem execAll_keeps_poison (is : List Instr) {s : State} (hs : s.frOvf = true)
    (his : ∀ i ∈ is, (∀ m, performed i ≠ .frBegin m) ∧ performed i ≠ .frEmit) :
    ∃ t, execAll is s = .next t ∧ t.frOvf = true := by
  induction is generalizing s with
  | nil => exact ⟨s, rfl, hs⟩
  | cons i is ih =>
    obtain ⟨⟨hbegin, hemit⟩, hrest⟩ := List.forall_mem_cons.mp his
    obtain ⟨u, r, hu, -, he⟩ := exec_effect i s
    have hovf : (u.respond r).frOvf = true := hu.keeps_poison hbegin hemit hs
    rw [execAll_cons_of_next is he]
    exact ih hovf hrest

/-- A poisoned frame shows FR_OVF in bit 16 of FR_STATE (R34). -/
theorem frStateValue_poison {s : State} (h : s.frOvf = true) : s.frStateValue.getLsbD 16 = true :=
  (frStateValue_getLsbD s 16).trans h

/-- STATUS shows a raised cause in the bit of its code (R24, R170). -/
theorem statusValue_raise (c : Cause) (s : State) : (s.raise c).statusValue.getLsbD c.code = true := by
  have hbit : c.bit.getLsbD c.code = true := by cases c <;> decide
  rw [statusValue_getLsbD, State.raise_status, BitVec.getLsbD_or, hbit, Bool.or_true]

/-- Settles O45: the refused push poisons the frame, by induction nothing in between lifts the poison, and FR_EMIT of a poisoned
frame raises FREJ. -/
theorem poisonedFrameSendsNothing : Obligations.PoisonedFrameSendsNothing := by
  intro b is s hrefused his
  obtain ⟨t, hrun, hovf⟩ := execAll_keeps_poison is (s := (s.poison.raise .lovf).respond .okWrite) rfl his
  exact ⟨t, _, (execAll_cons_of_next is (exec_frPush_of_refused b hrefused)).trans hrun, exec_frEmit_of_poisoned hovf, rfl,
    ⟨_, _, rfl, rfl, frStateValue_poison hovf⟩, ⟨_, _, rfl, rfl, statusValue_raise .frej t⟩⟩

end Sys2Proof.Machine
end
